-- ==== Sys2Proof/Word.lean ====
section
/-! DEFINITION. The word type and the sparse store that words are kept in.

A Word of this machine is a signed decimal integer (R7, R44), and its type here is `Int`. The range ±99,999,999 is no
part of the type; it is the predicate `Machine.InWord`, because PC, SP, RB and RL are unbounded (R44) and share their
arithmetic with the Word-valued places, whose range is the invariant `Machine.State.WordsOnly` (log entry 2). -/

namespace Sys2Proof

/-- Words by address: memory (R52) and the disk (R53). The list is in one canonical form, `Memory.wf`: addresses
strictly rising and no entry equal to 0, which is what an unlisted address reads as (R400). -/
abbrev Memory := List (Nat × Int)

end Sys2Proof
end

