-- ==== Sys2Proof/Config.lean ====
section
/-! DEFINITION. The fixed parameters of the block (R5, U1, U2, U5) and the free values: the schedule (R91), and the Word
that LOADSP reads from an SP outside the Word range. -/

namespace Sys2Proof

/-- What the scheduler may let a unit do next (R90, R91). Each name but `cpuCycle` is one atomic action of one
agent; `cpuCycle` is the CPU's remaining actions of one cycle, taken with no other agent's action between them
(log entry 4). -/
inductive UnitAction where
  /-- All the CPU has left to do in this cycle, uninterrupted: fetch, execute and check point (R140). -/
  | cpuCycle
  /-- One atomic action of the CPU: the stop step, a fetch, an execute or a check point (R140). -/
  | cpu
  /-- The timer unit's Checking step (R331) or its fire step (R332). -/
  | timer
  /-- The timer unit's exit step from Sleeping (R333). -/
  | timerExit
  /-- The DMA unit's Idle step (R343) or its transfer step (R342). -/
  | dma
  /-- The DMA unit's exit step from Busy (R344). -/
  | dmaExit
  deriving DecidableEq, Repr, Inhabited

/-- The register that indexed mode adds: U2's parameter INDEX_REG. -/
inductive IndexRegister where
  | ac
  | rx
  deriving DecidableEq, Repr

namespace Config

/-- WORD_MAX (R5). -/
def wordMax : Int := 99999999
/-- WORD_MIN (R5). -/
def wordMin : Int := -99999999
/-- MEM_WORDS: memory is the addresses 0..1999 (R5, R70). -/
def memWords : Nat := 2000
/-- KERNEL_END: the kernel region is [0,300) and the user region [300,2000) (R5, R80). No instruction reads it. -/
def kernelEnd : Nat := 300
/-- OPCODE_COUNT: opcodes 00..33 (R5). -/
def opcodeCount : Nat := 34
/-- OPERAND_MAX: the largest operand field N (R5). -/
def operandMax : Nat := 99999
/-- DISK_TRACKS (R5). -/
def diskTracks : Nat := 10
/-- DISK_CYLINDERS (R5). -/
def diskCylinders : Nat := 10
/-- DISK_SECTORS, in one cylinder of one track (R5). -/
def diskSectors : Nat := 100
/-- SECTOR_CHARS: the width of a sector's text (R5, U5). -/
def sectorChars : Nat := 9
/-- INDEX_REG (U2): AC by D3. -/
def indexRegister : IndexRegister := .ac
/-- LIMIT_INCLUSIVE (U2): false by D4, so a user address is legal only below RL. -/
def limitInclusive : Bool := false

/-- FREE VALUE (log entry 3). Which action is scheduled at the k-th choice that nothing outside the model has
settled. R91 admits every interleaving, so nothing is known of it. -/
opaque freeAction : Nat → UnitAction

/-- FREE VALUE (log entry 16). Where the k-th Word drawn stands in the Word range, counted from WORD_MIN. Nothing is
known of it but that it stands in the range. -/
opaque freeOffset : Nat → Fin 199999999

/-- FREE VALUE (log entry 16). The k-th Word drawn: any Word. -/
def freeWord (k : Nat) : Int := wordMin + (freeOffset k).val

end Config

end Sys2Proof
end

