-- ==== Sys2Proof/Syntax.lean ====
section
/-! DEFINITION. The instructions: one constructor per row of the opcode map (R118), with the fields its operand
class uses (R117). A field that a class ignores is no part of the instruction (log entry 6). -/

namespace Sys2Proof

/-- The operand of a class V or class S instruction: the mode digit M, turned into a name, and the field N (R115,
R116). -/
inductive Operand where
  /-- M = 0: the word at RB + N (R73). -/
  | direct (n : Nat)
  /-- M = 1: the value N itself (R73). -/
  | immediate (n : Nat)
  /-- M = 2: the word at RB + AC + N (R73). -/
  | indexed (n : Nat)
  /-- M = 3..9: an illegal mode digit, which raises code 5 at execute (R115, R119). -/
  | illegalMode (m n : Nat)
  deriving DecidableEq, Repr

/-- The 34 instructions, in opcode order (R118). -/
inductive Instr where
  | add (op : Operand)
  | sub (op : Operand)
  | mul (op : Operand)
  | div (op : Operand)
  | load (op : Operand)
  | store (op : Operand)
  | loadrx (op : Operand)
  | strrx (op : Operand)
  | comp (op : Operand)
  | jmpe (n : Nat)
  | jmpne (n : Nat)
  | jmplt (n : Nat)
  | jmplgt (n : Nat)
  | svc
  | retrn
  | hab
  | dhab
  | tti (n : Nat)
  | chmod (n : Nat)
  | loadrb
  | strrb
  | loadrl
  | strrl
  | loadsp
  | strsp
  | psh
  | pop
  | j (n : Nat)
  | sdmap (n : Nat)
  | sdmac (n : Nat)
  | sdmas (n : Nat)
  | sdmaio (n : Nat)
  | sdmam (n : Nat)
  | sdmaon
  deriving DecidableEq, Repr

end Sys2Proof
end

