-- ==== Sys2Proof/WellFormed.lean ====
section
/-! DEFINITION. Which instruction terms the one format can spell: five digits of operand, one digit of mode (R110). -/

namespace Sys2Proof

/-- The operand field fits its five digits: 0..99999 (R116). -/
def fieldWellFormed (n : Nat) : Bool := decide (n ≤ Config.operandMax)

/-- The operand field fits, and an illegal mode digit is one of 3..9 (R115). -/
def Operand.wellFormed : Operand → Bool
  | .direct n => fieldWellFormed n
  | .immediate n => fieldWellFormed n
  | .indexed n => fieldWellFormed n
  | .illegalMode m n => decide (3 ≤ m) && decide (m ≤ 9) && fieldWellFormed n

/-- An instruction some word spells. -/
def Instr.wellFormed : Instr → Bool
  | .add op => op.wellFormed
  | .sub op => op.wellFormed
  | .mul op => op.wellFormed
  | .div op => op.wellFormed
  | .load op => op.wellFormed
  | .store op => op.wellFormed
  | .loadrx op => op.wellFormed
  | .strrx op => op.wellFormed
  | .comp op => op.wellFormed
  | .jmpe n => fieldWellFormed n
  | .jmpne n => fieldWellFormed n
  | .jmplt n => fieldWellFormed n
  | .jmplgt n => fieldWellFormed n
  | .svc => true
  | .retrn => true
  | .hab => true
  | .dhab => true
  | .tti n => fieldWellFormed n
  | .chmod n => fieldWellFormed n
  | .loadrb => true
  | .strrb => true
  | .loadrl => true
  | .strrl => true
  | .loadsp => true
  | .strsp => true
  | .psh => true
  | .pop => true
  | .j n => fieldWellFormed n
  | .sdmap n => fieldWellFormed n
  | .sdmac n => fieldWellFormed n
  | .sdmas n => fieldWellFormed n
  | .sdmaio n => fieldWellFormed n
  | .sdmam n => fieldWellFormed n
  | .sdmaon => true

end Sys2Proof
end

