-- ==== Sys2Proof/Decode.lean ====
section
/-! DEFINITION. Words to instructions and back, by division on powers of ten (R110 to R122). -/

namespace Sys2Proof

/-- Why a word is no instruction. Both raise code 5 at execute (R119, R144). -/
inductive IllegalWord where
  /-- The word is negative (R113). -/
  | negative
  /-- The opcode field is above 33 (R114), or the integer has more than eight digits (log entry 2). -/
  | unrecognizedOpcode
  deriving DecidableEq, Repr

/-- Digits d1 d2, the opcode field OP (R112). -/
def opcodeDigits (w : Nat) : Nat := w / 1000000

/-- Digit d3, the mode field M (R112). -/
def modeDigit (w : Nat) : Nat := w / 100000 % 10

/-- Digits d4 to d8, the operand field N (R112). -/
def operandDigits (w : Nat) : Nat := w % 100000

/-- The operand a class V or S instruction has for the fields M and N (R115). -/
def operandOf (m n : Nat) : Operand :=
  match m with
  | 0 => .direct n
  | 1 => .immediate n
  | 2 => .indexed n
  | _ => .illegalMode m n

/-- The instruction with the fields OP, M and N, by the opcode map (R118). Classes J and R take N and class Z
nothing; they ignore the rest (R117). -/
def instrOf (op m n : Nat) : Except IllegalWord Instr :=
  match op with
  | 0 => .ok (.add (operandOf m n))
  | 1 => .ok (.sub (operandOf m n))
  | 2 => .ok (.mul (operandOf m n))
  | 3 => .ok (.div (operandOf m n))
  | 4 => .ok (.load (operandOf m n))
  | 5 => .ok (.store (operandOf m n))
  | 6 => .ok (.loadrx (operandOf m n))
  | 7 => .ok (.strrx (operandOf m n))
  | 8 => .ok (.comp (operandOf m n))
  | 9 => .ok (.jmpe n)
  | 10 => .ok (.jmpne n)
  | 11 => .ok (.jmplt n)
  | 12 => .ok (.jmplgt n)
  | 13 => .ok .svc
  | 14 => .ok .retrn
  | 15 => .ok .hab
  | 16 => .ok .dhab
  | 17 => .ok (.tti n)
  | 18 => .ok (.chmod n)
  | 19 => .ok .loadrb
  | 20 => .ok .strrb
  | 21 => .ok .loadrl
  | 22 => .ok .strrl
  | 23 => .ok .loadsp
  | 24 => .ok .strsp
  | 25 => .ok .psh
  | 26 => .ok .pop
  | 27 => .ok (.j n)
  | 28 => .ok (.sdmap n)
  | 29 => .ok (.sdmac n)
  | 30 => .ok (.sdmas n)
  | 31 => .ok (.sdmaio n)
  | 32 => .ok (.sdmam n)
  | 33 => .ok .sdmaon
  | _ => .error .unrecognizedOpcode

/-- The instruction a word in IR is, or why it is none (R112, R113, R114). -/
def decode (w : Int) : Except IllegalWord Instr :=
  match w with
  | .ofNat k => instrOf (opcodeDigits k) (modeDigit k) (operandDigits k)
  | .negSucc _ => .error .negative

/-- The word of the fields OP, M and N (R111). -/
def composeWord (op m n : Nat) : Int := ((op * 1000000 + m * 100000 + n : Nat) : Int)

/-- The word of a class V or S instruction: opcode, mode digit and operand field (R111, R115). -/
def encodeOperand (op : Nat) : Operand → Int
  | .direct n => composeWord op 0 n
  | .immediate n => composeWord op 1 n
  | .indexed n => composeWord op 2 n
  | .illegalMode m n => composeWord op m n

/-- The word of an instruction, from the opcode map (R111, R118). An ignored field is written 0 (R120). -/
def encode : Instr → Int
  | .add op => encodeOperand 0 op
  | .sub op => encodeOperand 1 op
  | .mul op => encodeOperand 2 op
  | .div op => encodeOperand 3 op
  | .load op => encodeOperand 4 op
  | .store op => encodeOperand 5 op
  | .loadrx op => encodeOperand 6 op
  | .strrx op => encodeOperand 7 op
  | .comp op => encodeOperand 8 op
  | .jmpe n => composeWord 9 0 n
  | .jmpne n => composeWord 10 0 n
  | .jmplt n => composeWord 11 0 n
  | .jmplgt n => composeWord 12 0 n
  | .svc => composeWord 13 0 0
  | .retrn => composeWord 14 0 0
  | .hab => composeWord 15 0 0
  | .dhab => composeWord 16 0 0
  | .tti n => composeWord 17 0 n
  | .chmod n => composeWord 18 0 n
  | .loadrb => composeWord 19 0 0
  | .strrb => composeWord 20 0 0
  | .loadrl => composeWord 21 0 0
  | .strrl => composeWord 22 0 0
  | .loadsp => composeWord 23 0 0
  | .strsp => composeWord 24 0 0
  | .psh => composeWord 25 0 0
  | .pop => composeWord 26 0 0
  | .j n => composeWord 27 0 n
  | .sdmap n => composeWord 28 0 n
  | .sdmac n => composeWord 29 0 n
  | .sdmas n => composeWord 30 0 n
  | .sdmaio n => composeWord 31 0 n
  | .sdmam n => composeWord 32 0 n
  | .sdmaon => composeWord 33 0 0

/-- The instruction the decoder reads from the instruction word w. A word of this machine is one decimal integer,
so the bits numbered from the least significant one are those of the integer itself, and their count says nothing
(log entry 9). -/
def decodeTableWord (_nbits w : Nat) : Option Instr :=
  match decode (w : Int) with
  | .ok i => some i
  | .error _ => none

end Sys2Proof
end

