-- ==== Sys2Proof/Machine/State.lean ====
section
/-! DEFINITION. The state record shared by the CPU, the timer unit, the DMA unit and the host (R30), its reset value
(R400), and the reasons for which a step has no next state. -/

namespace Sys2Proof.Machine

/-- PSW.cc: 0, 1, 2, 3 in this order (R38). -/
inductive ConditionCode where
  /-- 0, equal or zero. -/
  | equal
  /-- 1, less or negative. -/
  | less
  /-- 2, greater or positive. -/
  | greater
  /-- 3, overflow or fault. -/
  | fault
  deriving DecidableEq, Repr

/-- PSW.mode: 0 user (unprivileged), 1 kernel (privileged) (R39, R320). -/
inductive Mode where
  | user
  | kernel
  deriving DecidableEq, Repr

/-- The interrupt codes 0..8, in this order (R310). -/
inductive InterruptCode where
  /-- 0, fatal; no rule raises it (R303). -/
  | invalidSyscall
  /-- 1, fatal; no rule raises it (R303). -/
  | invalidInterrupt
  /-- 2, recoverable: SVC. -/
  | systemCall
  /-- 3, recoverable: the timer unit. -/
  | clockTick
  /-- 4, recoverable: the DMA unit. -/
  | ioCompletion
  /-- 5, fatal: illegal instruction or privilege violation. -/
  | illegalInstruction
  /-- 6, fatal: invalid address. -/
  | invalidAddress
  /-- 7, fatal: stack underflow, or an arithmetic result below the Word range. -/
  | stackUnderflow
  /-- 8, fatal: stack overflow, an arithmetic result above the Word range, or division by zero. -/
  | stackOverflowOrArithmetic
  deriving DecidableEq, Repr

/-- The interrupt slot (R47, R301). -/
structure Slot where
  pending : Bool
  code : InterruptCode
  deriving DecidableEq, Repr

/-- DMA.status: 0 success, 1 error (R50). -/
inductive DmaStatus where
  | success
  | error
  deriving DecidableEq, Repr

/-- The DMA registers (R49, R50, R51). -/
structure DmaRegisters where
  track : Nat
  cylinder : Nat
  sector : Nat
  address : Nat
  direction : Nat
  status : DmaStatus
  active : Bool
  deriving DecidableEq, Repr

/-- CpuPhase (R54, R140). -/
inductive CpuPhase where
  | stopped
  | fetch
  | execute
  | check
  deriving DecidableEq, Repr

/-- TimerPhase (R54, R330). -/
inductive TimerPhase where
  | stopped
  | checking
  | sleeping
  deriving DecidableEq, Repr

/-- DmaPhase (R54, R340). -/
inductive DmaPhase where
  | stopped
  | idle
  | busy
  deriving DecidableEq, Repr

/-- The events a host observes (R12). -/
inductive Event where
  /-- The execute action ran the word `ir`, fetched from `mar` (R145). -/
  | executed (mar : Int) (ir : Int)
  /-- The check point delivered the code (R313). -/
  | delivered (code : InterruptCode)
  deriving DecidableEq, Repr

/-- What the host may do after reset (R407). Reset is no action of this type: it is done once and first, and
`State.reset` is the state it leaves (log entry 7). -/
inductive HostAction where
  /-- Write the words from `loadAddress` on (R405). -/
  | load (words : List Int) (loadAddress : Int)
  /-- Set PSW.mode, for tests (R403). -/
  | setMode (mode : Mode)
  /-- Start a program (R406). -/
  | dispatch (base limit startOffset : Int)
  deriving DecidableEq, Repr

/-- One turn of the schedule: an action of a unit or of the host (R91; log entry 3). -/
inductive Turn where
  | unit (action : UnitAction)
  | host (action : HostAction)
  deriving DecidableEq, Repr

/-- The state of the machine (R30, R55), and after it the three fields that a model of its runs needs. -/
structure State where
  /-- The accumulator (R32). -/
  ac : Int
  /-- The auxiliary register, the lower stack guard (R33). -/
  rx : Int
  /-- The program counter, a physical address (R35). -/
  pc : Int
  /-- PSW.cc (R38). -/
  cc : ConditionCode
  /-- PSW.mode (R39). -/
  mode : Mode
  /-- PSW.ie (R40). -/
  ie : Bool
  /-- The base register (R41). -/
  rb : Int
  /-- The limit register, one past the last owned address (R42). -/
  rl : Int
  /-- The stack pointer, an offset from RB (R43). -/
  sp : Int
  /-- The memory address register (R45). -/
  mar : Int
  /-- The memory data register (R45). -/
  mdr : Int
  /-- The instruction register (R45). -/
  ir : Int
  /-- The running flag (R46). -/
  running : Bool
  /-- The interrupt slot (R47). -/
  slot : Slot
  /-- Timer.period (R48). -/
  timerPeriod : Nat
  /-- The DMA registers (R49 to R51). -/
  dma : DmaRegisters
  /-- Memory (R52). -/
  mem : Memory
  /-- The disk, by sector number (R53). -/
  disk : Memory
  /-- CpuPhase (R54). -/
  cpuPhase : CpuPhase
  /-- TimerPhase (R54). -/
  timerPhase : TimerPhase
  /-- DmaPhase (R54). -/
  dmaPhase : DmaPhase
  /-- The events emitted so far, newest first (R12; log entry 8). -/
  history : List Event
  /-- The turns to come, next first: an input of the model (log entry 3). -/
  script : List Turn
  /-- How many free values have been drawn: turns from `Config.freeAction` (log entry 3) and Words from
  `Config.freeWord` (log entry 16). -/
  draws : Nat
  deriving DecidableEq, Repr

/-- Why the machine stops with a fault: never. The block answers every abnormal condition with a raise into the
interrupt slot and goes on (R300, R314), and every access is checked before it is made, so no rule leaves a fault
to name (log entry 14). -/
inductive Fault where
  deriving DecidableEq, Repr

/-- Why a step has no meaning. -/
inductive Refusal where
  /-- Raised by `exec` for an instruction without a meaning; no arm does. Safe: nothing is claimed of such a run. -/
  | notModelled (mnemonic : String)
  /-- Raised by a host turn whose duty is broken: a unit is not Stopped, a value is no Word, or a load leaves memory
  (R407, U13: the host action has no move). Unsafe: a host that breaks its duties does something, and no claim
  about a run covers it (log entry 7). -/
  | hostDutyBroken
  deriving DecidableEq, Repr

/-- What a step or a meaning answers. -/
abbrev StepResult := Host.Outcome State Fault Refusal

/-- The state after machine start (R400, R402). The last three fields are the model's own (log entry 12). -/
def State.reset : State where
  ac := 0
  rx := 0
  pc := 0
  cc := .equal
  mode := .user
  ie := false
  rb := 0
  rl := 0
  sp := 0
  mar := 0
  mdr := 0
  ir := 0
  running := false
  slot := { pending := false, code := .invalidSyscall }
  timerPeriod := 0
  dma := { track := 0, cylinder := 0, sector := 0, address := 0, direction := 0, status := .success, active := false }
  mem := []
  disk := []
  cpuPhase := .stopped
  timerPhase := .stopped
  dmaPhase := .stopped
  history := []
  script := []
  draws := 0

end Sys2Proof.Machine
end

