-- ==== Sys2Proof/Machine/Ops.lean ====
section
/-! DEFINITION. The named operations over memory, disk, slot and history that every other rule is written in. -/

namespace Sys2Proof

/-- The word at an address; an unlisted address reads as 0 (R400). -/
def Memory.read : Memory → Nat → Int
  | [], _ => 0
  | (k, w) :: rest, a => if k = a then w else Memory.read rest a

/-- Store a word at an address, keeping the list in canonical form: writing 0 lists nothing. -/
def Memory.write : Memory → Nat → Int → Memory
  | [], a, v => if v = 0 then [] else [(a, v)]
  | (k, w) :: rest, a, v =>
    if a < k then (if v = 0 then (k, w) :: rest else (a, v) :: (k, w) :: rest)
    else if a = k then (if v = 0 then rest else (a, v) :: rest)
    else (k, w) :: Memory.write rest a v

/-- The canonical form of a store with the addresses below `size`: rising addresses, no listed 0. -/
abbrev Memory.wf (size : Nat) (m : Memory) : Prop :=
  List.Pairwise (fun c d : Nat × Int => c.1 < d.1) m ∧ ∀ c ∈ m, c.2 ≠ 0 ∧ c.1 < size

end Sys2Proof

namespace Sys2Proof.Machine

/-- InWord(v): v lies in the Word range (R7). -/
abbrev InWord (v : Int) : Prop := Config.wordMin ≤ v ∧ v ≤ Config.wordMax

/-- InMachine(a): a is an address of memory (R75). -/
abbrev InMachine (a : Int) : Prop := 0 ≤ a ∧ a < Config.memWords

/-- The upper bound of a user address: a < RL by D4, a ≤ RL under U2's other parameter value. -/
abbrev BelowLimit (a rl : Int) : Prop := if Config.limitInclusive then a ≤ rl else a < rl

/-- Valid(a): the address check of the fetch, of Resolve and of Target (R75). -/
abbrev State.Valid (s : State) (a : Int) : Prop :=
  InMachine a ∧ (s.mode = .kernel ∨ (s.rb ≤ a ∧ BelowLimit a s.rl))

/-- MemRead(a, 1) (R9). Every rule checks `InMachine a` first. -/
def State.memRead (s : State) (a : Int) : Int := s.mem.read a.toNat

/-- MemWrite(a, 1, v) (R9). Every rule checks `InMachine a` first. -/
def State.memWrite (s : State) (a : Int) (v : Int) : State := { s with mem := s.mem.write a.toNat v }

/-- How many sectors the disk has (R53). -/
def diskSize : Nat := Config.diskTracks * Config.diskCylinders * Config.diskSectors

/-- The place of Disk[t][c][s] in the list of sectors (R53). -/
def sectorNumber (track cylinder sector : Nat) : Nat :=
  (track * Config.diskCylinders + cylinder) * Config.diskSectors + sector

/-- DiskRead(t, c, s) (R340). -/
def State.diskRead (s : State) (track cylinder sector : Nat) : Int := s.disk.read (sectorNumber track cylinder sector)

/-- A character of a sector's text (R341). -/
inductive TextChar where
  | minus
  | digit (d : Nat)
  deriving DecidableEq, Repr

/-- The decimal digits of n, most significant first, at most `fuel` of them. -/
def decimalDigitsUpTo : Nat → Nat → List Nat
  | 0, _ => []
  | fuel + 1, n => if n < 10 then [n] else decimalDigitsUpTo fuel (n / 10) ++ [n % 10]

/-- The decimal digits of n with no leading zeros, "0" for 0. A number has no more decimal than binary digits. -/
def decimalDigits (n : Nat) : List Nat := decimalDigitsUpTo (n.log2 + 1) n

/-- Text(v): the digits of |v|, after a minus sign if v < 0 (R341). -/
def sectorText (v : Int) : List TextChar :=
  (if v < 0 then [TextChar.minus] else []) ++ (decimalDigits v.natAbs).map TextChar.digit

/-- The number that a row of digits spells. -/
def parseDigits (acc : Nat) : List TextChar → Nat
  | [] => acc
  | .digit d :: rest => parseDigits (acc * 10 + d) rest
  | .minus :: rest => parseDigits acc rest

/-- Parse(t): an optional minus sign, then digits (R341). -/
def parseText : List TextChar → Int
  | .minus :: rest => -(parseDigits 0 rest : Int)
  | t => (parseDigits 0 t : Int)

/-- SectorValue(v): what the text of v says once it is cut to the sector's width (R341; log entry 11). -/
def sectorValue (v : Int) : Int := parseText ((sectorText v).take Config.sectorChars)

/-- DiskWrite(t, c, s, v) (R340). -/
def State.diskWrite (s : State) (track cylinder sector : Nat) (v : Int) : State :=
  { s with disk := s.disk.write (sectorNumber track cylinder sector) (sectorValue v) }

/-- Fatal(c): the codes 0, 1, 5, 6, 7 and 8 (R311). -/
def InterruptCode.isFatal : InterruptCode → Bool
  | .invalidSyscall => true
  | .invalidInterrupt => true
  | .systemCall => false
  | .clockTick => false
  | .ioCompletion => false
  | .illegalInstruction => true
  | .invalidAddress => true
  | .stackUnderflow => true
  | .stackOverflowOrArithmetic => true

/-- The slot after an attempt to set it: the first raise wins and a later one is dropped (R302). -/
def Slot.raise (slot : Slot) (c : InterruptCode) : Slot :=
  if slot.pending then slot else { pending := true, code := c }

/-- SlotRaise(c): the one way any unit reports an abnormal or asynchronous event (R300, R302). This is all that
taking an exception is on this machine: nothing is saved and control goes nowhere (R314). -/
def State.raise (s : State) (c : InterruptCode) : State := { s with slot := s.slot.raise c }

/-- emit E: record an event in the history (R12). -/
def State.emit (s : State) (e : Event) : State := { s with history := e :: s.history }

/-- The check point: deliver the pending code, end the run if it is fatal, clear the pending flag and go on to the
next fetch (R146). There is no return from a delivery (R315). -/
def State.checkPoint (s : State) : State :=
  if s.slot.pending then
    { s.emit (.delivered s.slot.code) with
      running := if s.slot.code.isFatal then false else s.running
      slot := { s.slot with pending := false }
      cpuPhase := .fetch }
  else { s with cpuPhase := .fetch }

/-- Go on with the state a step answered, and pass a fault or a refusal through. -/
def andThen (r : StepResult) (k : State → StepResult) : StepResult :=
  match r with
  | .next s => k s
  | .fault f => .fault f
  | .refused f => .refused f

end Sys2Proof.Machine
end

