-- ==== Sys2Proof/Machine/Flags.lean ====
section
/-! DEFINITION. The condition code and the result check of the arithmetic instructions (R38, R160, R200). -/

namespace Sys2Proof.Machine

/-- Sign(r) (R160). -/
def signCode (r : Int) : ConditionCode :=
  if r = 0 then .equal else if r < 0 then .less else .greater

/-- The condition code of COMP (R200). -/
def compareCode (a b : Int) : ConditionCode :=
  if a = b then .equal else if a < b then .less else .greater

/-- An arithmetic fault: cc becomes 3, AC stays, and the code is raised (R160, D7). -/
def State.arithFault (s : State) (c : InterruptCode) : State := { s with cc := .fault }.raise c

/-- ArithCommit(r) (R160). -/
def State.arithCommit (s : State) (r : Int) : State :=
  if Config.wordMax < r then s.arithFault .stackOverflowOrArithmetic
  else if r < Config.wordMin then s.arithFault .stackUnderflow
  else { s with ac := r, cc := signCode r }

end Sys2Proof.Machine
end

