-- ==== Sys2Proof/Machine/Operands.lean ====
section
/-! DEFINITION. The operand forms: Resolve, Target and the jump target (R73, R74, R76, R117). -/

namespace Sys2Proof.Machine

/-- The register that indexed mode adds: AC by D3, RX under U2's other parameter value (R73). -/
def State.index (s : State) : Int :=
  match Config.indexRegister with
  | .ac => s.ac
  | .rx => s.rx

/-- The word at a checked address, or code 6 (R74). -/
def State.readChecked (s : State) (a : Int) : Except InterruptCode Int :=
  if s.Valid a then .ok (s.memRead a) else .error .invalidAddress

/-- Resolve(M, N): the value operand of a class V instruction, or the code it raises (R74). -/
def State.resolve (s : State) : Operand → Except InterruptCode Int
  | .immediate n => .ok n
  | .direct n => s.readChecked (s.rb + n)
  | .indexed n => s.readChecked (s.rb + s.index + n)
  | .illegalMode _ _ => .error .illegalInstruction

/-- A checked address, or code 6 (R76). -/
def State.checked (s : State) (a : Int) : Except InterruptCode Int :=
  if s.Valid a then .ok a else .error .invalidAddress

/-- Target(M, N): the address a class S instruction writes, or the code it raises (R76). -/
def State.target (s : State) : Operand → Except InterruptCode Int
  | .direct n => s.checked (s.rb + n)
  | .indexed n => s.checked (s.rb + s.index + n)
  | .immediate _ => .error .invalidAddress
  | .illegalMode _ _ => .error .illegalInstruction

/-- Run a class V rule on its resolved operand, or raise the operand's code and do nothing else (R10, R74). -/
def State.withValue (s : State) (op : Operand) (rule : Int → State) : StepResult :=
  match s.resolve op with
  | .ok v => .next (rule v)
  | .error c => .next (s.raise c)

/-- Run a class S rule on its target, or raise the target's code and do nothing else (R10, R76). -/
def State.withTarget (s : State) (op : Operand) (rule : Int → State) : StepResult :=
  match s.target op with
  | .ok a => .next (rule a)
  | .error c => .next (s.raise c)

/-- Take a class J jump to RB + N; the target is checked only by the next fetch (R201). -/
def State.jumpTo (s : State) (n : Nat) : State := { s with pc := s.rb + n }

/-- Take the jump when its condition holds; otherwise PC stays past the jump (R36, R201). -/
def State.jumpIf (s : State) (taken : Bool) (n : Nat) : State := if taken then s.jumpTo n else s

end Sys2Proof.Machine
end

