-- ==== Sys2Proof/Machine/Arithmetic.lean ====
section
/-! DEFINITION. ADD, SUB, MUL, DIV (41_arithmetic.md). -/

namespace Sys2Proof.Machine

/-- Sign'(x): +1 for x ≥ 0 and -1 for x < 0 (R163). -/
def signFactor (x : Int) : Int := if 0 ≤ x then 1 else -1

/-- tdiv(a, b): the quotient rounded toward zero, for b ≠ 0 (R163). -/
def tdiv (a b : Int) : Int := signFactor a * signFactor b * ((a.natAbs / b.natAbs : Nat) : Int)

/-- ADD (R161). -/
def execAdd (op : Operand) (s : State) : StepResult :=
  s.withValue op fun v => s.arithCommit (s.ac + v)

/-- SUB (R162). -/
def execSub (op : Operand) (s : State) : StepResult :=
  s.withValue op fun v => s.arithCommit (s.ac - v)

/-- MUL (R164). -/
def execMul (op : Operand) (s : State) : StepResult :=
  s.withValue op fun v => s.arithCommit (s.ac * v)

/-- DIV (R165). -/
def execDiv (op : Operand) (s : State) : StepResult :=
  s.withValue op fun v =>
    if v = 0 then s.arithFault .stackOverflowOrArithmetic else s.arithCommit (tdiv s.ac v)

end Sys2Proof.Machine
end

