-- ==== Sys2Proof/Machine/CompareJump.lean ====
section
/-! DEFINITION. COMP, JMPE, JMPNE, JMPLT, JMPLGT, J (43_compare_and_jumps.md). -/

namespace Sys2Proof.Machine

/-- COMP (R200). -/
def execComp (op : Operand) (s : State) : StepResult :=
  s.withValue op fun v => { s with cc := compareCode s.ac v }

/-- JMPE: taken on cc = 0 (R202). -/
def execJmpe (n : Nat) (s : State) : StepResult := .next (s.jumpIf (s.cc == .equal) n)

/-- JMPNE: taken on cc ≠ 0, so on 3 too (R203). -/
def execJmpne (n : Nat) (s : State) : StepResult := .next (s.jumpIf (s.cc != .equal) n)

/-- JMPLT: taken on cc = 1 (R204). -/
def execJmplt (n : Nat) (s : State) : StepResult := .next (s.jumpIf (s.cc == .less) n)

/-- JMPLGT: taken on cc = 2 (R205). -/
def execJmplgt (n : Nat) (s : State) : StepResult := .next (s.jumpIf (s.cc == .greater) n)

/-- J: always taken (R206). -/
def execJ (n : Nat) (s : State) : StepResult := .next (s.jumpTo n)

end Sys2Proof.Machine
end

