-- ==== Sys2Proof/Machine/DataMovement.lean ====
section
/-! DEFINITION. LOAD, STORE, LOADRX, STRRX (42_data_movement.md). -/

namespace Sys2Proof.Machine

/-- LOAD (R180). -/
def execLoad (op : Operand) (s : State) : StepResult :=
  s.withValue op fun v => { s with ac := v }

/-- STORE (R181). -/
def execStore (op : Operand) (s : State) : StepResult :=
  s.withTarget op fun a => s.memWrite a s.ac

/-- LOADRX (R182). -/
def execLoadrx (op : Operand) (s : State) : StepResult :=
  s.withValue op fun v => { s with rx := v }

/-- STRRX (R183). -/
def execStrrx (op : Operand) (s : State) : StepResult :=
  s.withTarget op fun a => s.memWrite a s.rx

end Sys2Proof.Machine
end

