-- ==== Sys2Proof/Machine/DmaConfig.lean ====
section
/-! DEFINITION. SDMAP, SDMAC, SDMAS, SDMAIO, SDMAM, SDMAON: a register is written as it is, and legality is left to
the transfer (47_dma_config.md, R280). -/

namespace Sys2Proof.Machine

/-- SDMAP (R281). -/
def execSdmap (n : Nat) (s : State) : StepResult := .next { s with dma := { s.dma with track := n } }

/-- SDMAC (R282). -/
def execSdmac (n : Nat) (s : State) : StepResult := .next { s with dma := { s.dma with cylinder := n } }

/-- SDMAS (R283). -/
def execSdmas (n : Nat) (s : State) : StepResult := .next { s with dma := { s.dma with sector := n } }

/-- SDMAIO (R284). -/
def execSdmaio (n : Nat) (s : State) : StepResult := .next { s with dma := { s.dma with direction := n } }

/-- SDMAM (R285). -/
def execSdmam (n : Nat) (s : State) : StepResult := .next { s with dma := { s.dma with address := n } }

/-- SDMAON: arm the unit; its Idle step sees the flag (R286). -/
def execSdmaon (s : State) : StepResult := .next { s with dma := { s.dma with active := true } }

end Sys2Proof.Machine
end

