-- ==== Sys2Proof/Machine/RegisterAccess.lean ====
section
/-! DEFINITION. LOADRB, STRRB, LOADRL, STRRL, LOADSP, STRSP: no check of mode or value (45_register_access.md, R221). -/

namespace Sys2Proof.Machine

/-- LOADRB (R240). -/
def execLoadrb (s : State) : StepResult := .next { s with ac := s.rb }

/-- STRRB (R241). -/
def execStrrb (s : State) : StepResult := .next { s with rb := s.ac }

/-- LOADRL (R242). -/
def execLoadrl (s : State) : StepResult := .next { s with ac := s.rl }

/-- STRRL (R243). -/
def execStrrl (s : State) : StepResult := .next { s with rl := s.ac }

/-- LOADSP (R244). AC only ever receives Words (R44), so from an SP outside the Word range it receives a free one (log
entry 16). -/
def execLoadsp (s : State) : StepResult :=
  if InWord s.sp then .next { s with ac := s.sp }
  else .next { s with ac := Config.freeWord s.draws, draws := s.draws + 1 }

/-- STRSP (R245). -/
def execStrsp (s : State) : StepResult := .next { s with sp := s.ac }

end Sys2Proof.Machine
end

