-- ==== Sys2Proof/Machine/Stack.lean ====
section
/-! DEFINITION. PSH, POP, RETRN: bounds of their own, not the address check (46_stack.md, R77). -/

namespace Sys2Proof.Machine

/-- Where a push writes: RB + SP (R260). -/
def State.pushAddress (s : State) : Int := s.rb + s.sp

/-- Where a pop reads: RB + the incremented SP (R261). -/
def State.popAddress (s : State) : Int := s.rb + (s.sp + 1)

/-- The checks of a push, guard and limit before the machine bound: the address written, or the code raised (R260,
R318). -/
def State.pushSlot (s : State) : Except InterruptCode Int :=
  if s.pushAddress < s.rx ∨ s.rl ≤ s.pushAddress then .error .stackOverflowOrArithmetic
  else if InMachine s.pushAddress then .ok s.pushAddress
  else .error .invalidAddress

/-- The checks of a pop, sentinel before the machine bound: the address read, or the code raised (R261, R318). -/
def State.popSlot (s : State) : Except InterruptCode Int :=
  if s.rl - s.rb - 1 < s.sp + 1 then .error .stackUnderflow
  else if InMachine s.popAddress then .ok s.popAddress
  else .error .invalidAddress

/-- PSH: write AC, then decrement SP (R260). -/
def execPsh (s : State) : StepResult :=
  match s.pushSlot with
  | .ok a => .next { s.memWrite a s.ac with sp := s.sp - 1 }
  | .error c => .next (s.raise c)

/-- POP: increment SP, then read into AC (R261). -/
def execPop (s : State) : StepResult :=
  match s.popSlot with
  | .ok a => .next { s with ac := s.memRead a, sp := s.sp + 1 }
  | .error c => .next (s.raise c)

/-- RETRN: pop a physical address into PC; it is checked only by the next fetch (R264). -/
def execRetrn (s : State) : StepResult :=
  match s.popSlot with
  | .ok a => .next { s with pc := s.memRead a, sp := s.sp + 1 }
  | .error c => .next (s.raise c)

end Sys2Proof.Machine
end

