-- ==== Sys2Proof/Machine/System.lean ====
section
/-! DEFINITION. SVC, HAB, DHAB, TTI, CHMOD (44_system.md). -/

namespace Sys2Proof.Machine

/-- SVC: with AC = 0 the run is to end, and code 2 is raised in any case (R220). -/
def execSvc (s : State) : StepResult :=
  .next ({ s with running := if s.ac = 0 then false else s.running }.raise .systemCall)

/-- HAB (R222). -/
def execHab (s : State) : StepResult := .next { s with ie := true }

/-- DHAB (R223). -/
def execDhab (s : State) : StepResult := .next { s with ie := false }

/-- TTI (R224). -/
def execTti (n : Nat) (s : State) : StepResult := .next { s with timerPeriod := n }

/-- CHMOD: only in kernel mode, and only to 0 or 1; code 5 otherwise (R226). -/
def execChmod (n : Nat) (s : State) : StepResult :=
  match s.mode, n with
  | .user, _ => .next (s.raise .illegalInstruction)
  | .kernel, 0 => .next { s with mode := .user }
  | .kernel, 1 => .next { s with mode := .kernel }
  | .kernel, _ + 2 => .next (s.raise .illegalInstruction)

end Sys2Proof.Machine
end

