-- ==== Sys2Proof/Machine/Dispatch.lean ====
section
/-! DEFINITION. The body of the execute action, by instruction (R118, R143). -/

namespace Sys2Proof.Machine

def exec (i : Instr) (s : State) : Host.Outcome State Fault Refusal :=
  match i with
  | .add op => Sys2Proof.Machine.execAdd op s
  | .sub op => Sys2Proof.Machine.execSub op s
  | .mul op => Sys2Proof.Machine.execMul op s
  | .div op => Sys2Proof.Machine.execDiv op s
  | .load op => Sys2Proof.Machine.execLoad op s
  | .store op => Sys2Proof.Machine.execStore op s
  | .loadrx op => Sys2Proof.Machine.execLoadrx op s
  | .strrx op => Sys2Proof.Machine.execStrrx op s
  | .comp op => Sys2Proof.Machine.execComp op s
  | .jmpe n => Sys2Proof.Machine.execJmpe n s
  | .jmpne n => Sys2Proof.Machine.execJmpne n s
  | .jmplt n => Sys2Proof.Machine.execJmplt n s
  | .jmplgt n => Sys2Proof.Machine.execJmplgt n s
  | .svc => Sys2Proof.Machine.execSvc s
  | .retrn => Sys2Proof.Machine.execRetrn s
  | .hab => Sys2Proof.Machine.execHab s
  | .dhab => Sys2Proof.Machine.execDhab s
  | .tti n => Sys2Proof.Machine.execTti n s
  | .chmod n => Sys2Proof.Machine.execChmod n s
  | .loadrb => Sys2Proof.Machine.execLoadrb s
  | .strrb => Sys2Proof.Machine.execStrrb s
  | .loadrl => Sys2Proof.Machine.execLoadrl s
  | .strrl => Sys2Proof.Machine.execStrrl s
  | .loadsp => Sys2Proof.Machine.execLoadsp s
  | .strsp => Sys2Proof.Machine.execStrsp s
  | .psh => Sys2Proof.Machine.execPsh s
  | .pop => Sys2Proof.Machine.execPop s
  | .j n => Sys2Proof.Machine.execJ n s
  | .sdmap n => Sys2Proof.Machine.execSdmap n s
  | .sdmac n => Sys2Proof.Machine.execSdmac n s
  | .sdmas n => Sys2Proof.Machine.execSdmas n s
  | .sdmaio n => Sys2Proof.Machine.execSdmaio n s
  | .sdmam n => Sys2Proof.Machine.execSdmam n s
  | .sdmaon => Sys2Proof.Machine.execSdmaon s

end Sys2Proof.Machine
end

