-- ==== Sys2Proof/Machine/Cycle.lean ====
section
/-! DEFINITION. The CPU's actions: fetch, execute, check point and stop step (40_cycle.md). -/

namespace Sys2Proof.Machine

/-- The fetch action. A PC that fails the address check raises 6 and skips the execute, with MDR, IR and PC unchanged
(R141). -/
def State.fetchAction (s : State) : State :=
  if s.Valid s.pc then
    { s with
      mar := s.pc
      mdr := s.memRead s.pc
      ir := s.memRead s.pc
      pc := s.pc + 1
      cpuPhase := .execute }
  else { s with mar := s.pc, cpuPhase := .check }.raise .invalidAddress

/-- The body of the execute action: the rule the word in IR names, or code 5 (R143, R144). -/
def State.executeIr (s : State) : StepResult :=
  match decode s.ir with
  | .ok i => exec i s
  | .error _ => .next (s.raise .illegalInstruction)

/-- The execute action: emit the trace event, perform the body, go on to the check point (R143, R145). -/
def State.executeAction (s : State) : StepResult :=
  andThen (s.emit (.executed s.mar s.ir)).executeIr fun t => .next { t with cpuPhase := .check }

/-- One atomic action of the CPU, by its phase; a Stopped CPU has none (R140). -/
def State.cpuAction (s : State) : StepResult :=
  match s.cpuPhase with
  | .stopped => .next s
  | .fetch => .next (if s.running then s.fetchAction else { s with cpuPhase := .stopped })
  | .execute => s.executeAction
  | .check => .next s.checkPoint

/-- What is left of a cycle that has begun: the execute, if the fetch reached it, and the check point (R140). -/
def State.finishCycle (s : State) : StepResult :=
  match s.cpuPhase with
  | .stopped => .next s
  | .fetch => .next s
  | .execute => andThen s.executeAction fun t => .next t.checkPoint
  | .check => .next s.checkPoint

/-- The CPU's remaining actions of one cycle, with no other agent's action between them (log entry 4). -/
def State.cpuCycle (s : State) : StepResult := andThen s.cpuAction State.finishCycle

end Sys2Proof.Machine
end

