-- ==== Sys2Proof/Machine/DmaUnit.lean ====
section
/-! DEFINITION. The DMA unit's steps (60_exceptions.md section 6). -/

namespace Sys2Proof.Machine

/-- The registers name a sector, a memory address and a direction (R342; D28, D30). -/
abbrev DmaRegisters.Legal (d : DmaRegisters) : Prop :=
  d.track < Config.diskTracks ∧ d.cylinder < Config.diskCylinders ∧ d.sector < Config.diskSectors ∧
    d.address < Config.memWords ∧ (d.direction = 0 ∨ d.direction = 1)

/-- Move one word: memory to disk for direction 1, disk to memory otherwise. The protection unit has no part in it
(R342, R78). -/
def State.dmaMove (s : State) : State :=
  if s.dma.direction = 1 then s.diskWrite s.dma.track s.dma.cylinder s.dma.sector (s.memRead s.dma.address)
  else s.memWrite s.dma.address (s.diskRead s.dma.track s.dma.cylinder s.dma.sector)

/-- The transfer itself, skipped when a register is illegal (R342). -/
def State.dmaMoveIfLegal (s : State) : State := if s.dma.Legal then s.dmaMove else s

/-- What the transfer writes to DMA.status (R342, D40). -/
def State.dmaOutcome (s : State) : DmaStatus := if s.dma.Legal then .success else .error

/-- The transfer step: the registers are read now, and the unit raises 4 and disarms whatever came of it (R342). -/
def State.dmaTransfer (s : State) : State :=
  { s.dmaMoveIfLegal.raise .ioCompletion with
    dma := { s.dma with status := s.dmaOutcome, active := false }
    dmaPhase := .idle }

/-- The Idle step (R343) or, in Busy, the transfer step, whether or not Running still holds (R342). -/
def State.dmaAction (s : State) : State :=
  match s.dmaPhase with
  | .stopped => s
  | .idle =>
    if !s.running then { s with dmaPhase := .stopped }
    else if s.dma.active then { s with dmaPhase := .busy }
    else s
  | .busy => s.dmaTransfer

/-- The exit step from Busy, enabled only when Running is false; DMA.active stays as it is (R344). -/
def State.dmaExit (s : State) : State :=
  if s.dmaPhase = .busy ∧ s.running = false then { s with dmaPhase := .stopped } else s

end Sys2Proof.Machine
end

