-- ==== Sys2Proof/Machine/HostActions.lean ====
section
/-! DEFINITION. The host's actions: load, set mode, dispatch (70_reset_and_hazards.md section 2). -/

namespace Sys2Proof.Machine

/-- Every unit is Stopped: the run has ended, and only the host can act (R407, R408). -/
abbrev State.AllStopped (s : State) : Prop :=
  s.cpuPhase = .stopped ∧ s.timerPhase = .stopped ∧ s.dmaPhase = .stopped

/-- Store the words one after another from address `a` on (R405). -/
def loadWords : Memory → Nat → List Int → Memory
  | m, _, [] => m
  | m, a, w :: rest => loadWords (m.write a w) (a + 1) rest

/-- The duties of a load (R405, R407). -/
abbrev LoadDuty (s : State) (words : List Int) (loadAddress : Int) : Prop :=
  s.AllStopped ∧ (∀ w ∈ words, InWord w) ∧ 0 ≤ loadAddress ∧ loadAddress + words.length ≤ Config.memWords

/-- The duties of a dispatch (R406, R407). -/
abbrev DispatchDuty (s : State) (base limit : Int) : Prop := s.AllStopped ∧ InWord base ∧ InWord limit

/-- What a dispatch writes, and nothing else (R404, R406). -/
def State.dispatched (s : State) (base limit startOffset : Int) : State :=
  { s with
    rb := base
    rl := limit
    pc := base + startOffset
    sp := limit - base - 1
    running := true
    cpuPhase := .fetch
    timerPhase := .checking
    dmaPhase := .idle }

/-- A host action; one that breaks a duty has no move (R403, R405, R406, R407, U13). -/
def State.hostAction (s : State) : HostAction → StepResult
  | .load words loadAddress =>
    if LoadDuty s words loadAddress then .next { s with mem := loadWords s.mem loadAddress.toNat words }
    else .refused .hostDutyBroken
  | .setMode mode => if s.AllStopped then .next { s with mode := mode } else .refused .hostDutyBroken
  | .dispatch base limit startOffset =>
    if DispatchDuty s base limit then .next (s.dispatched base limit startOffset) else .refused .hostDutyBroken

end Sys2Proof.Machine
end

