-- ==== Sys2Proof/Machine/Timer.lean ====
section
/-! DEFINITION. The timer unit's steps (60_exceptions.md section 5). -/

namespace Sys2Proof.Machine

/-- The Checking step (R331) or, in Sleeping, the fire step, whether or not Running still holds (R332). -/
def State.timerAction (s : State) : State :=
  match s.timerPhase with
  | .stopped => s
  | .checking =>
    if !s.running then { s with timerPhase := .stopped }
    else if s.timerPeriod = 0 then s
    else { s with timerPhase := .sleeping }
  | .sleeping => { s.raise .clockTick with timerPhase := .checking }

/-- The exit step from Sleeping, enabled only when Running is false (R333). -/
def State.timerExit (s : State) : State :=
  if s.timerPhase = .sleeping ∧ s.running = false then { s with timerPhase := .stopped } else s

end Sys2Proof.Machine
end

