-- ==== Sys2Proof/Machine/Schedule.lean ====
section
/-! DEFINITION. Whose turn it is, and what a turn does (R90, R91; log entries 3 and 4). -/

namespace Sys2Proof.Machine

/-- The next turn: the script's next entry, or the free value when the script is spent (R91). -/
def State.nextTurn (s : State) : Turn :=
  match s.script with
  | t :: _ => t
  | [] => .unit (Config.freeAction s.draws)

/-- The state once its next turn has been taken off the script, or drawn. -/
def State.consumeTurn (s : State) : State :=
  match s.script with
  | _ :: rest => { s with script := rest }
  | [] => { s with draws := s.draws + 1 }

/-- One turn of a unit. A unit with no action enabled does nothing in it (R140, R331, R343). -/
def State.unitAction (s : State) : UnitAction → StepResult
  | .cpuCycle => s.cpuCycle
  | .cpu => s.cpuAction
  | .timer => .next s.timerAction
  | .timerExit => .next s.timerExit
  | .dma => .next s.dmaAction
  | .dmaExit => .next s.dmaExit

/-- One turn (R90). -/
def State.takeTurn (s : State) : Turn → StepResult
  | .unit a => s.unitAction a
  | .host a => s.hostAction a

/-- The CPU's next action is a fetch that passes the address check. -/
abbrev State.ReadyToFetch (s : State) : Prop := s.cpuPhase = .fetch ∧ s.running = true ∧ s.Valid s.pc

/-- The state itself if its CPU is ready to fetch; otherwise the state a dispatch of the whole user region leaves
(R406; log entry 10). -/
def State.readied (s : State) : State :=
  if s.ReadyToFetch then s else s.dispatched Config.kernelEnd Config.memWords 0

/-- The word w at the address of the next fetch, and the CPU's whole cycle as the next turn (log entry 10). -/
def State.placeFetchWord (s : State) (w : Nat) : State :=
  { s.readied.memWrite s.readied.pc w with script := .unit .cpuCycle :: s.readied.script }

end Sys2Proof.Machine
end

