-- ==== Sys2Proof/Machine/Step.lean ====
section
/-! DEFINITION. One step of the machine, and where a word is put for the next step to run it. -/

namespace Sys2Proof.Machine

/-- One step: take the next turn (R91). -/
def step (s : State) : Host.Outcome State Fault Refusal := s.consumeTurn.takeTurn s.nextTurn

/-- The state s with the instruction word w where the next step fetches it. A word of this machine is one integer,
whatever its width in bits (log entries 9 and 10). -/
def State.withFetchWord (s : State) (_nbits w : Nat) : State := s.placeFetchWord w

end Sys2Proof.Machine
end

