-- ==== Sys2Proof/Safety.lean ====
section
/-! DEFINITION. What claims about runs are stated in: agents and fairness, the end of a run, and the invariants. -/

namespace Sys2Proof.Machine

/-- The three units that act on their own (R350). -/
inductive Agent where
  | cpu
  | timer
  | dma
  deriving DecidableEq, Repr

/-- The unit whose action it is (R90). -/
def unitOf : UnitAction → Agent
  | .cpuCycle => .cpu
  | .cpu => .cpu
  | .timer => .timer
  | .timerExit => .timer
  | .dma => .dma
  | .dmaExit => .dma

/-- The action is enabled (R140, R331 to R333, R342 to R344). A turn that takes one that is not changes nothing. -/
def State.allows (s : State) : UnitAction → Bool
  | .cpuCycle => s.cpuPhase != .stopped
  | .cpu => s.cpuPhase != .stopped
  | .timer => s.timerPhase != .stopped
  | .timerExit => s.timerPhase == .sleeping && !s.running
  | .dma => s.dmaPhase != .stopped
  | .dmaExit => s.dmaPhase == .busy && !s.running

/-- The unit has an enabled action: it is not Stopped. -/
def State.enabled (s : State) : Agent → Bool
  | .cpu => s.cpuPhase != .stopped
  | .timer => s.timerPhase != .stopped
  | .dma => s.dmaPhase != .stopped

/-- An endless run: one interleaving of turns and the states it leads through (R91). The schedule is given from outside,
so that every interleaving is one; a step takes its turns from `script` and the free value instead. -/
def IsRun (schedule : Nat → Turn) (run : Nat → State) : Prop :=
  ∀ n, (run n).takeTurn (schedule n) = .next (run (n + 1))

/-- Weak fairness: a unit that stays enabled takes an enabled action in the end (R93, D43; log entry 5). -/
def WeaklyFair (schedule : Nat → Turn) (run : Nat → State) : Prop :=
  ∀ (u : Agent) (n : Nat), (∀ m, n ≤ m → (run m).enabled u = true) →
    ∃ m, n ≤ m ∧ ∃ a, schedule m = .unit a ∧ unitOf a = u ∧ (run m).allows a = true

/-- Memory and disk are in canonical form, with no address beyond them (R52, R53). -/
def State.Canonical (s : State) : Prop :=
  Memory.wf Config.memWords s.mem ∧ Memory.wf diskSize s.disk

/-- Every place the spec calls Word-valued holds a Word (R32, R33, R44, R45, R52, R53), and so do RB and RL, which
receive only Words from AC and, by the host's duty, from a dispatch (R44, R407). -/
def State.WordsOnly (s : State) : Prop :=
  InWord s.ac ∧ InWord s.rx ∧ InWord s.rb ∧ InWord s.rl ∧ InWord s.mdr ∧ InWord s.ir ∧
    (∀ c ∈ s.mem, InWord c.2) ∧ ∀ c ∈ s.disk, InWord c.2

/-- The timer period and the DMA parameter registers hold operand fields, 0..99999 (R48, R49). -/
def State.OperandsInRange (s : State) : Prop :=
  s.timerPeriod ≤ Config.operandMax ∧ s.dma.track ≤ Config.operandMax ∧ s.dma.cylinder ≤ Config.operandMax ∧
    s.dma.sector ≤ Config.operandMax ∧ s.dma.address ≤ Config.operandMax ∧ s.dma.direction ≤ Config.operandMax

/-- What can be pending: never code 0 or 1, which no rule raises (R303), and a fatal code only between the raise and
the check point of the same cycle (R408). -/
def State.SlotInvariant (s : State) : Prop :=
  s.slot.pending = true →
    s.slot.code ≠ .invalidSyscall ∧ s.slot.code ≠ .invalidInterrupt ∧
      (s.slot.code.isFatal = true → s.cpuPhase = .check)

/-- While Running holds, no unit has stopped (R140, R331, R333, R343, R344), and a DMA unit that is Busy is armed
(R342, R343). -/
def State.UnitsInvariant (s : State) : Prop :=
  (s.running = true → s.cpuPhase ≠ .stopped ∧ s.timerPhase ≠ .stopped ∧ s.dmaPhase ≠ .stopped) ∧
    (s.dmaPhase = .busy → s.dma.active = true)

end Sys2Proof.Machine
end

