-- ==== Sys2Proof/Certificates/Slice0/Obligations.lean ====
section
/-! DEFINITION. The statements for the provers. A docstring names the rule of the spec a statement formalises, and
the decision (D<n>) or log entry it rests on where the rule itself is the spec's or the model's choice. -/

open Sys2Proof Sys2Proof.Machine

/-! ### Encoding and decoding -/

/-- Decoding the word of a well-formed instruction gives the instruction back, whatever its operand (R111 and R112
are each other's inverse). That an ignored field is written 0 is log entry 6. -/
def Obligations.DecodeInvertsEncode : Prop :=
  ∀ i : Instr, i.wellFormed = true → decode (encode i) = .ok i

/-- R112: every non-negative Word is spelled by exactly one triple of fields, the quotients and remainders by powers of
ten. -/
def Obligations.WordIsSpelledByOneTriple : Prop :=
  ∀ w : Nat, w ≤ 99999999 →
    (opcodeDigits w = w / 1000000 ∧ modeDigit w = w / 100000 % 10 ∧ operandDigits w = w % 100000) ∧
      (opcodeDigits w ≤ 99 ∧ modeDigit w ≤ 9 ∧ operandDigits w ≤ 99999) ∧
      composeWord (opcodeDigits w) (modeDigit w) (operandDigits w) = w ∧
      ∀ op m n : Nat, op ≤ 99 → m ≤ 9 → n ≤ 99999 → composeWord op m n = w →
        op = opcodeDigits w ∧ m = modeDigit w ∧ n = operandDigits w

/-- A decoded instruction holds every field its operand class uses and nothing else (R117, R118): its own word has the
opcode digits of the word decoded, the mode digit of class V and S, and the operand digits of every class but Z. What
the classes ignore rests on D15, D17 and D44; that it is written 0 is log entry 6. -/
def Obligations.DecodeKeepsEveryUsedField : Prop :=
  ∀ (w : Nat) (i : Instr), decode (w : Int) = .ok i →
    i.wellFormed = true ∧
      encode i =
        composeWord (w / 1000000) (if w / 1000000 ≤ 8 then w / 100000 % 10 else 0)
          (if w / 1000000 ∈ [13, 14, 15, 16, 19, 20, 21, 22, 23, 24, 25, 26, 33] then 0 else w % 100000)

/-- The words that are no instruction are the negative ones and those with an opcode above 33 (R113, R114, R119). That
a negative word is none rests on D14; that an integer of more than eight digits is none is log entry 2. -/
def Obligations.IllegalWordsAreNegativeOrAboveOpcode33 : Prop :=
  ∀ w : Int, (w < 0 ↔ decode w = .error .negative) ∧ (34000000 ≤ w ↔ decode w = .error .unrecognizedOpcode)

/-- Every word of every row of the opcode map decodes to that row's instruction (R118), with its operand class's fields
(R115, R117), and ten words written out from the map do. That classes J, R and Z ignore M, and Z also N, is D15, D17 and
D44 (log entries 6 and 13); that a mode digit 3 to 9 is an illegal mode is D13. -/
def Obligations.WrittenOutWordsDecode : Prop :=
  (∀ m n : Nat, m ≤ 9 → n ≤ 99999 →
      decode (composeWord 0 m n) = .ok (.add (operandOf m n)) ∧
      decode (composeWord 1 m n) = .ok (.sub (operandOf m n)) ∧
      decode (composeWord 2 m n) = .ok (.mul (operandOf m n)) ∧
      decode (composeWord 3 m n) = .ok (.div (operandOf m n)) ∧
      decode (composeWord 4 m n) = .ok (.load (operandOf m n)) ∧
      decode (composeWord 5 m n) = .ok (.store (operandOf m n)) ∧
      decode (composeWord 6 m n) = .ok (.loadrx (operandOf m n)) ∧
      decode (composeWord 7 m n) = .ok (.strrx (operandOf m n)) ∧
      decode (composeWord 8 m n) = .ok (.comp (operandOf m n)) ∧
      decode (composeWord 9 m n) = .ok (.jmpe n) ∧
      decode (composeWord 10 m n) = .ok (.jmpne n) ∧
      decode (composeWord 11 m n) = .ok (.jmplt n) ∧
      decode (composeWord 12 m n) = .ok (.jmplgt n) ∧
      decode (composeWord 13 m n) = .ok .svc ∧
      decode (composeWord 14 m n) = .ok .retrn ∧
      decode (composeWord 15 m n) = .ok .hab ∧
      decode (composeWord 16 m n) = .ok .dhab ∧
      decode (composeWord 17 m n) = .ok (.tti n) ∧
      decode (composeWord 18 m n) = .ok (.chmod n) ∧
      decode (composeWord 19 m n) = .ok .loadrb ∧
      decode (composeWord 20 m n) = .ok .strrb ∧
      decode (composeWord 21 m n) = .ok .loadrl ∧
      decode (composeWord 22 m n) = .ok .strrl ∧
      decode (composeWord 23 m n) = .ok .loadsp ∧
      decode (composeWord 24 m n) = .ok .strsp ∧
      decode (composeWord 25 m n) = .ok .psh ∧
      decode (composeWord 26 m n) = .ok .pop ∧
      decode (composeWord 27 m n) = .ok (.j n) ∧
      decode (composeWord 28 m n) = .ok (.sdmap n) ∧
      decode (composeWord 29 m n) = .ok (.sdmac n) ∧
      decode (composeWord 30 m n) = .ok (.sdmas n) ∧
      decode (composeWord 31 m n) = .ok (.sdmaio n) ∧
      decode (composeWord 32 m n) = .ok (.sdmam n) ∧
      decode (composeWord 33 m n) = .ok .sdmaon) ∧
    (∀ m n : Nat, operandOf 0 n = .direct n ∧ operandOf 1 n = .immediate n ∧ operandOf 2 n = .indexed n ∧
      (3 ≤ m → operandOf m n = .illegalMode m n)) ∧
    decode 101005 = .ok (.add (.immediate 1005)) ∧
    decode 4200005 = .ok (.load (.indexed 5)) ∧
    decode 5000050 = .ok (.store (.direct 50)) ∧
    decode 8399999 = .ok (.comp (.illegalMode 3 99999)) ∧
    decode 27900005 = .ok (.j 5) ∧
    decode 18000001 = .ok (.chmod 1) ∧
    decode 24000000 = .ok .strsp ∧
    decode 25000000 = .ok .psh ∧
    decode 32000320 = .ok (.sdmam 320) ∧
    decode 33999999 = .ok .sdmaon

/-! ### Operands -/

/-- Resolve(M, N) and the address check behind it, written out (R73, R74, R75). It rests on D3 (AC indexes), D4 (RL is
exclusive), D5 (nothing outside 0..1999) and D13 (mode digits 3 to 9). -/
def Obligations.ResolveChecksAndReads : Prop :=
  ∀ (s : State) (n m : Nat),
    (∀ a : Int, s.Valid a ↔ 0 ≤ a ∧ a < 2000 ∧ (s.mode = .kernel ∨ (s.rb ≤ a ∧ a < s.rl))) ∧
      s.resolve (.immediate n) = .ok n ∧
      s.resolve (.illegalMode m n) = .error .illegalInstruction ∧
      (s.Valid (s.rb + n) → s.resolve (.direct n) = .ok (s.mem.read (s.rb + n).toNat)) ∧
      (¬ s.Valid (s.rb + n) → s.resolve (.direct n) = .error .invalidAddress) ∧
      (s.Valid (s.rb + s.ac + n) → s.resolve (.indexed n) = .ok (s.mem.read (s.rb + s.ac + n).toNat)) ∧
      (¬ s.Valid (s.rb + s.ac + n) → s.resolve (.indexed n) = .error .invalidAddress)

/-- Target(M, N), written out (R76). It rests on D3, D12 (immediate raises 6) and D13. -/
def Obligations.TargetChecksTheAddress : Prop :=
  ∀ (s : State) (n m : Nat),
    s.target (.immediate n) = .error .invalidAddress ∧
      s.target (.illegalMode m n) = .error .illegalInstruction ∧
      (s.Valid (s.rb + n) → s.target (.direct n) = .ok (s.rb + n)) ∧
      (¬ s.Valid (s.rb + n) → s.target (.direct n) = .error .invalidAddress) ∧
      (s.Valid (s.rb + s.ac + n) → s.target (.indexed n) = .ok (s.rb + s.ac + n)) ∧
      (¬ s.Valid (s.rb + s.ac + n) → s.target (.indexed n) = .error .invalidAddress)

/-- An operand that cannot be resolved, or a store target that is none, raises its code and the instruction changes
nothing else (R10, R74, R76, R161 to R165, R180 to R183, R200). -/
def Obligations.OperandFaultRaisesItsCodeOnly : Prop :=
  ∀ (s : State) (op : Operand) (c : InterruptCode),
    (s.resolve op = .error c →
        ∀ i ∈ [Instr.add op, .sub op, .mul op, .div op, .load op, .loadrx op, .comp op],
          exec i s = .next { s with slot := s.slot.raise c }) ∧
      (s.target op = .error c →
        ∀ i ∈ [Instr.store op, .strrx op], exec i s = .next { s with slot := s.slot.raise c })

/-! ### Arithmetic and compare -/

/-- ADD, SUB and MUL store a result in the Word range with the condition code of its sign, and change nothing else
(R160, R161, R162, R164). -/
def Obligations.AddSubMulStoreResultsInRange : Prop :=
  ∀ (s : State) (op : Operand) (v : Int), s.resolve op = .ok v →
    (-99999999 ≤ s.ac + v → s.ac + v ≤ 99999999 →
        exec (.add op) s =
          .next { s with
            ac := s.ac + v
            cc := if s.ac + v = 0 then .equal else if s.ac + v < 0 then .less else .greater }) ∧
      (-99999999 ≤ s.ac - v → s.ac - v ≤ 99999999 →
        exec (.sub op) s =
          .next { s with
            ac := s.ac - v
            cc := if s.ac - v = 0 then .equal else if s.ac - v < 0 then .less else .greater }) ∧
      (-99999999 ≤ s.ac * v → s.ac * v ≤ 99999999 →
        exec (.mul op) s =
          .next { s with
            ac := s.ac * v
            cc := if s.ac * v = 0 then .equal else if s.ac * v < 0 then .less else .greater })

/-- ADD, SUB and MUL leave AC as it is when the result is out of range, set cc to 3, and raise 8 above the maximum and
7 below the minimum (R160, R166). The codes rest on D6 and cc = 3 on D7. -/
def Obligations.AddSubMulFaultOutOfRange : Prop :=
  ∀ (s : State) (op : Operand) (v : Int), s.resolve op = .ok v →
    ∀ r i, ((i = Instr.add op ∧ r = s.ac + v) ∨ (i = .sub op ∧ r = s.ac - v) ∨ (i = .mul op ∧ r = s.ac * v)) →
      (99999999 < r →
          exec i s = .next { s with cc := .fault, slot := s.slot.raise .stackOverflowOrArithmetic }) ∧
        (r < -99999999 → exec i s = .next { s with cc := .fault, slot := s.slot.raise .stackUnderflow })

/-- DIV stores the quotient truncated toward zero, which is always in range when AC is a Word, and raises 8 with cc = 3
on a divisor of 0 (R163, R165). The rounding rests on D8, code 8 on D6 and cc = 3 on D7. -/
def Obligations.DivTruncatesTowardZero : Prop :=
  ∀ (s : State) (op : Operand) (v : Int), s.resolve op = .ok v →
    (v = 0 → exec (.div op) s = .next { s with cc := .fault, slot := s.slot.raise .stackOverflowOrArithmetic }) ∧
      (v ≠ 0 → -99999999 ≤ s.ac → s.ac ≤ 99999999 →
        exec (.div op) s =
          .next { s with
            ac := Int.tdiv s.ac v
            cc := if Int.tdiv s.ac v = 0 then .equal else if Int.tdiv s.ac v < 0 then .less else .greater })

/-- LOAD and LOADRX load AC and RX, and COMP compares AC with the operand exactly; none changes anything else (R180,
R182, R200). LOADRX's register rests on D10, and that LOAD and LOADRX leave cc alone on D9. -/
def Obligations.LoadLoadrxCompResults : Prop :=
  ∀ (s : State) (op : Operand) (v : Int), s.resolve op = .ok v →
    exec (.load op) s = .next { s with ac := v } ∧
      exec (.loadrx op) s = .next { s with rx := v } ∧
      (s.ac = v → exec (.comp op) s = .next { s with cc := .equal }) ∧
      (s.ac < v → exec (.comp op) s = .next { s with cc := .less }) ∧
      (v < s.ac → exec (.comp op) s = .next { s with cc := .greater })

/-- STORE writes AC and STRRX writes RX to the target, in one word of memory, and change nothing else (R181, R183).
STRRX's register rests on D10. -/
def Obligations.StoreStrrxWriteTheirTarget : Prop :=
  ∀ (s : State) (op : Operand) (a : Int), s.target op = .ok a →
    ∀ i v, ((i = Instr.store op ∧ v = s.ac) ∨ (i = .strrx op ∧ v = s.rx)) →
      ∃ m : Memory, exec i s = .next { s with mem := m } ∧ (s.Canonical → m.read a.toNat = v) ∧
        ∀ b : Nat, b ≠ a.toNat → m.read b = s.mem.read b

/-! ### Jumps -/

/-- The conditional jumps and J: each goes to RB + N on its condition codes and otherwise leaves PC past the jump, with
no check of the target and no other effect (R201 to R206). The ignored mode digit and the unchecked target rest on
D15, JMPNE on cc = 3 on D16. -/
def Obligations.JumpsFollowTheConditionCode : Prop :=
  ∀ (s : State) (n : Nat),
    exec (.jmpe n) s = .next { s with pc := if s.cc = .equal then s.rb + n else s.pc } ∧
      exec (.jmpne n) s =
        .next { s with pc := if s.cc = .less ∨ s.cc = .greater ∨ s.cc = .fault then s.rb + n else s.pc } ∧
      exec (.jmplt n) s = .next { s with pc := if s.cc = .less then s.rb + n else s.pc } ∧
      exec (.jmplgt n) s = .next { s with pc := if s.cc = .greater then s.rb + n else s.pc } ∧
      exec (.j n) s = .next { s with pc := s.rb + n }

/-! ### System and register access -/

/-- SVC raises 2, or loses it behind a pending code, and clears Running exactly when AC = 0 (R220, R302). That the
instruction itself clears Running rests on D19. -/
def Obligations.SvcRaisesAndMayEndTheRun : Prop :=
  ∀ s : State,
    (s.ac = 0 → exec .svc s = .next { s with running := false, slot := s.slot.raise .systemCall }) ∧
      (s.ac ≠ 0 → exec .svc s = .next { s with slot := s.slot.raise .systemCall })

/-- Every word 15MNNNNN is HAB, which sets PSW.ie, and every word 16MNNNNN is DHAB, which clears it, and neither changes
any other state. The flag is bookkeeping: interrupts are raised, held and delivered alike whatever it is (R222, R223).
That class Z ignores M and N is D44 (log entries 6 and 13). -/
def Obligations.HabAndDhabWriteOnlyTheFlag : Prop :=
  (∀ m n : Nat, m ≤ 9 → n ≤ 99999 →
      decode (composeWord 15 m n) = .ok .hab ∧ decode (composeWord 16 m n) = .ok .dhab) ∧
    (∀ s : State, exec .hab s = .next { s with ie := true } ∧ exec .dhab s = .next { s with ie := false }) ∧
    ∀ (s : State) (b : Bool) (c : InterruptCode),
      { s with ie := b }.raise c = { s.raise c with ie := b } ∧
        { s with ie := b }.checkPoint = { s.checkPoint with ie := b }

/-- TTI, SDMAP, SDMAC, SDMAS, SDMAIO and SDMAM store the operand field unchanged, whatever it is and in either mode, and
SDMAON arms the DMA unit; none raises anything or changes other state (R224, R280 to R286). The raw operand rests on
D17, the missing privilege check on D18, the missing range check on D45. -/
def Obligations.DeviceRegistersTakeTheRawOperand : Prop :=
  ∀ (s : State) (n : Nat),
    exec (.tti n) s = .next { s with timerPeriod := n } ∧
      exec (.sdmap n) s = .next { s with dma := { s.dma with track := n } } ∧
      exec (.sdmac n) s = .next { s with dma := { s.dma with cylinder := n } } ∧
      exec (.sdmas n) s = .next { s with dma := { s.dma with sector := n } } ∧
      exec (.sdmaio n) s = .next { s with dma := { s.dma with direction := n } } ∧
      exec (.sdmam n) s = .next { s with dma := { s.dma with address := n } } ∧
      exec .sdmaon s = .next { s with dma := { s.dma with active := true } }

/-- CHMOD in kernel mode sets the mode its operand names, 0 or 1, and changes nothing else; in user mode, or with an
operand above 1, it raises 5 and leaves the mode and everything else alone (R226; D17 for the raw operand). -/
def Obligations.ChmodSetsTheModeInKernelModeOnly : Prop :=
  ∀ (s : State) (n : Nat),
    (s.mode = .kernel → exec (.chmod 0) s = .next { s with mode := .user } ∧ exec (.chmod 1) s = .next s) ∧
      (s.mode = .user ∨ 2 ≤ n →
        exec (.chmod n) s = .next { s with slot := s.slot.raise .illegalInstruction })

/-- LOADRB, LOADRL and LOADSP copy their register into AC, and STRRB, STRRL and STRSP copy AC into theirs, in either mode
and with no check (R221, R240 to R245). From an SP outside the Word range LOADSP writes some Word, of which nothing else
is said (log entry 16). The directions rest on D11, the missing checks on D51; that RB and RL outside the Word range,
which no run reaches, are copied as they are is log entry 2. -/
def Obligations.RegisterAccessCopiesWithoutCheck : Prop :=
  ∀ s : State,
    exec .loadrb s = .next { s with ac := s.rb } ∧
      exec .strrb s = .next { s with rb := s.ac } ∧
      exec .loadrl s = .next { s with ac := s.rl } ∧
      exec .strrl s = .next { s with rl := s.ac } ∧
      (-99999999 ≤ s.sp → s.sp ≤ 99999999 → exec .loadsp s = .next { s with ac := s.sp }) ∧
      (s.sp < -99999999 ∨ 99999999 < s.sp →
        ∃ v, InWord v ∧ exec .loadsp s = .next { s with ac := v, draws := s.draws + 1 }) ∧
      exec .strsp s = .next { s with sp := s.ac }

/-! ### Stack -/

/-- PSH writes AC to RB + SP and decrements SP when that address lies in [RX, RL) and in memory; nothing else changes
(R260). The bounds rest on D23 and D25. -/
def Obligations.PshWritesTheFreeSlot : Prop :=
  ∀ s : State, s.rx ≤ s.rb + s.sp → s.rb + s.sp < s.rl → 0 ≤ s.rb + s.sp → s.rb + s.sp < 2000 →
    ∃ m : Memory, exec .psh s = .next { s with mem := m, sp := s.sp - 1 } ∧
      (s.Canonical → m.read (s.rb + s.sp).toNat = s.ac) ∧
      ∀ b : Nat, b ≠ (s.rb + s.sp).toNat → m.read b = s.mem.read b

/-- POP reads RB + SP + 1 into AC, and RETRN reads it into PC, and both increment SP, when that address lies below RL and
in memory; nothing else changes (R261, R264). The bounds rest on D24 and D25. -/
def Obligations.PopAndRetrnReadTheTop : Prop :=
  ∀ s : State, s.rb + s.sp + 1 < s.rl → 0 ≤ s.rb + s.sp + 1 → s.rb + s.sp + 1 < 2000 →
    exec .pop s = .next { s with ac := s.mem.read (s.rb + s.sp + 1).toNat, sp := s.sp + 1 } ∧
      exec .retrn s = .next { s with pc := s.mem.read (s.rb + s.sp + 1).toNat, sp := s.sp + 1 }

/-- A push outside [RX, RL) raises 8, a pop or return past the sentinel raises 7, and one that passes these bounds but
leaves memory raises 6; none changes anything else (R260, R261, R264, R318). It rests on D23 and D24. -/
def Obligations.StackBoundsRaiseAndChangeNothing : Prop :=
  ∀ s : State,
    (s.rb + s.sp < s.rx ∨ s.rl ≤ s.rb + s.sp →
        exec .psh s = .next { s with slot := s.slot.raise .stackOverflowOrArithmetic }) ∧
      (s.rx ≤ s.rb + s.sp → s.rb + s.sp < s.rl → (s.rb + s.sp < 0 ∨ 2000 ≤ s.rb + s.sp) →
        exec .psh s = .next { s with slot := s.slot.raise .invalidAddress }) ∧
      ∀ i ∈ [Instr.pop, .retrn],
        (s.rl ≤ s.rb + s.sp + 1 → exec i s = .next { s with slot := s.slot.raise .stackUnderflow }) ∧
          (s.rb + s.sp + 1 < s.rl → (s.rb + s.sp + 1 < 0 ∨ 2000 ≤ s.rb + s.sp + 1) →
            exec i s = .next { s with slot := s.slot.raise .invalidAddress })

/-- The round-trip law of R263: a push that succeeds and the pop after it restore AC and SP and every register, and at
the guard the push raises 8 and changes neither memory nor SP. It rests on D23 and D24. -/
def Obligations.PushThenPopRestoresAcAndSp : Prop :=
  ∀ s : State, s.Canonical →
    (s.rx ≤ s.rb + s.sp → s.rb + s.sp < s.rl → 0 ≤ s.rb + s.sp → s.rb + s.sp < 2000 →
        ∃ t u, exec .psh s = .next t ∧ exec .pop t = .next u ∧ u = { s with mem := u.mem } ∧
          u.mem.read (s.rb + s.sp).toNat = s.ac) ∧
      (s.rb + s.sp < s.rx →
        ∃ t, exec .psh s = .next t ∧ t.mem = s.mem ∧ t.sp = s.sp ∧
          (s.slot.pending = false → t.slot = { pending := true, code := .stackOverflowOrArithmetic }))

/-! ### What instructions leave unchanged -/

/-- Every instruction answers a next state, whatever the state: an abnormal condition is a raise, never a stop (R143,
R300, R314). -/
def Obligations.EveryInstructionAnswersANextState : Prop :=
  ∀ (i : Instr) (s : State), ∃ t, exec i s = .next t

/-- What an instruction may change, by the rules of 41 to 47: t is s but for the fields named. The slot is named where
the instruction can raise. -/
def Sys2Proof.Machine.ChangesOnly (i : Instr) (s t : State) : Prop :=
  match i with
  | .add _ => t = { s with ac := t.ac, cc := t.cc, slot := t.slot }
  | .sub _ => t = { s with ac := t.ac, cc := t.cc, slot := t.slot }
  | .mul _ => t = { s with ac := t.ac, cc := t.cc, slot := t.slot }
  | .div _ => t = { s with ac := t.ac, cc := t.cc, slot := t.slot }
  | .load _ => t = { s with ac := t.ac, slot := t.slot }
  | .store _ => t = { s with mem := t.mem, slot := t.slot }
  | .loadrx _ => t = { s with rx := t.rx, slot := t.slot }
  | .strrx _ => t = { s with mem := t.mem, slot := t.slot }
  | .comp _ => t = { s with cc := t.cc, slot := t.slot }
  | .jmpe _ => t = { s with pc := t.pc }
  | .jmpne _ => t = { s with pc := t.pc }
  | .jmplt _ => t = { s with pc := t.pc }
  | .jmplgt _ => t = { s with pc := t.pc }
  | .svc => t = { s with running := t.running, slot := t.slot }
  | .retrn => t = { s with pc := t.pc, sp := t.sp, slot := t.slot }
  | .hab => t = { s with ie := t.ie }
  | .dhab => t = { s with ie := t.ie }
  | .tti _ => t = { s with timerPeriod := t.timerPeriod }
  | .chmod _ => t = { s with mode := t.mode, slot := t.slot }
  | .loadrb => t = { s with ac := t.ac }
  | .strrb => t = { s with rb := t.rb }
  | .loadrl => t = { s with ac := t.ac }
  | .strrl => t = { s with rl := t.rl }
  | .loadsp => t = { s with ac := t.ac, draws := t.draws }
  | .strsp => t = { s with sp := t.sp }
  | .psh => t = { s with mem := t.mem, sp := t.sp, slot := t.slot }
  | .pop => t = { s with ac := t.ac, sp := t.sp, slot := t.slot }
  | .j _ => t = { s with pc := t.pc }
  | .sdmap _ => t = { s with dma := { s.dma with track := t.dma.track } }
  | .sdmac _ => t = { s with dma := { s.dma with cylinder := t.dma.cylinder } }
  | .sdmas _ => t = { s with dma := { s.dma with sector := t.dma.sector } }
  | .sdmaio _ => t = { s with dma := { s.dma with direction := t.dma.direction } }
  | .sdmam _ => t = { s with dma := { s.dma with address := t.dma.address } }
  | .sdmaon => t = { s with dma := { s.dma with active := t.dma.active } }

/-- The frame of every instruction: all registers, flags, special registers, devices and phases outside the fields its
rule names are as before (R35 for PC, R56 for the disk and DMA.status, R161 to R286 for the rest). That only ADD, SUB,
MUL, DIV and COMP may change cc is D9; what LOADRX, STRRX and the register-access pairs move is D10 and D11 (log entry
13). That LOADSP may count a drawn Word is log entry 16. -/
def Obligations.EveryInstructionChangesOnlyItsFields : Prop :=
  ∀ (i : Instr) (s t : State), exec i s = .next t → ChangesOnly i s t

/-- The address an instruction stores to and the word it stores, if it stores. -/
def Sys2Proof.Machine.storeOf (i : Instr) (s : State) : Option (Int × Int) :=
  match i with
  | .store op => (s.target op).toOption.map fun a => (a, s.ac)
  | .strrx op => (s.target op).toOption.map fun a => (a, s.rx)
  | .psh => s.pushSlot.toOption.map fun a => (a, s.ac)
  | _ => none

/-- The memory frame of every instruction: STORE and STRRX store at their target and PSH at its slot, every other address
reads as before, and every other instruction, or a form of these three that raises, leaves every address reading as
before (R81, R181, R183, R260). That STRRX stores RX is D10, that an immediate operand is no target is D12, and
the bounds of the push slot are D23 (log entry 13). -/
def Obligations.EveryInstructionStoresOnlyAtItsAddress : Prop :=
  ∀ (i : Instr) (s t : State), exec i s = .next t →
    (∀ a v, storeOf i s = some (a, v) →
        (s.Canonical → t.mem.read a.toNat = v) ∧ ∀ b : Nat, b ≠ a.toNat → t.mem.read b = s.mem.read b) ∧
      (storeOf i s = none → ∀ b : Nat, t.mem.read b = s.mem.read b)

/-! ### The interrupt slot and the CPU cycle -/

/-- R302: a raise that finds nothing pending records its code, and one that finds a code pending is dropped without a
trace. -/
def Obligations.FirstRaiseWinsAndLaterOnesAreDropped : Prop :=
  ∀ (s : State) (c : InterruptCode),
    (s.slot.pending = false → s.raise c = { s with slot := { pending := true, code := c } }) ∧
      (s.slot.pending = true → s.raise c = s)

/-- R146: the check point delivers a pending code, clears Running on the codes 0, 1, 5, 6, 7 and 8 and leaves it on 2, 3
and 4, clears pending whatever the code, and goes on to the fetch, whether or not Running still holds. -/
def Obligations.CheckPointDeliversAndClears : Prop :=
  ∀ (s : State) (rest : List Turn), s.script = .unit .cpu :: rest → s.cpuPhase = .check →
    (s.slot.pending = false → step s = .next { s with script := rest, cpuPhase := .fetch }) ∧
      (s.slot.pending = true →
        (s.slot.code ∈ [InterruptCode.invalidSyscall, .invalidInterrupt, .illegalInstruction, .invalidAddress,
            .stackUnderflow, .stackOverflowOrArithmetic] →
          step s =
            .next { s with
              script := rest
              history := .delivered s.slot.code :: s.history
              running := false
              slot := { pending := false, code := s.slot.code }
              cpuPhase := .fetch }) ∧
        (s.slot.code ∈ [InterruptCode.systemCall, .clockTick, .ioCompletion] →
          step s =
            .next { s with
              script := rest
              history := .delivered s.slot.code :: s.history
              slot := { pending := false, code := s.slot.code }
              cpuPhase := .fetch }))

/-- The fetch action: MAR, MDR, IR and PC on a valid PC; only MAR, and code 6, on another (R141). The failed fetch rests
on D21. -/
def Obligations.FetchReadsTheWordOrRaises : Prop :=
  ∀ (s : State) (rest : List Turn), s.script = .unit .cpu :: rest → s.cpuPhase = .fetch → s.running = true →
    (s.Valid s.pc →
        step s =
          .next { s with
            script := rest
            mar := s.pc
            mdr := s.mem.read s.pc.toNat
            ir := s.mem.read s.pc.toNat
            pc := s.pc + 1
            cpuPhase := .execute }) ∧
      (¬ s.Valid s.pc →
        step s =
          .next { s with script := rest, mar := s.pc, slot := s.slot.raise .invalidAddress, cpuPhase := .check })

/-- The stop step, and the CPU that has stopped and takes no action (R140). That its turn changes nothing is log entry
3. -/
def Obligations.CpuStopsOnceRunningIsClear : Prop :=
  ∀ (s : State) (rest : List Turn), s.script = .unit .cpu :: rest →
    (s.cpuPhase = .fetch → s.running = false → step s = .next { s with script := rest, cpuPhase := .stopped }) ∧
      (s.cpuPhase = .stopped → step s = .next { s with script := rest })

/-- The execute action: the trace event, then the meaning of the instruction in IR, or code 5 for a word that is none,
then on to the check point (R143, R144, R145; D14 for negative words). -/
def Obligations.ExecuteActionRunsTheInstructionInIr : Prop :=
  ∀ (s : State) (rest : List Turn), s.script = .unit .cpu :: rest → s.cpuPhase = .execute →
    (∀ i t, decode s.ir = .ok i →
        exec i { s with script := rest, history := .executed s.mar s.ir :: s.history } = .next t →
        step s = .next { t with cpuPhase := .check }) ∧
      (∀ e, decode s.ir = .error e →
        step s =
          .next { s with
            script := rest
            history := .executed s.mar s.ir :: s.history
            slot := s.slot.raise .illegalInstruction
            cpuPhase := .check })

/-- A step takes the next turn of the script, or, once the script is spent, a turn of which nothing is known (R91; log
entry 3). So a script of k turns is one interleaving of k actions, and every interleaving is some script. -/
def Obligations.StepTakesTheNextTurn : Prop :=
  ∀ s : State,
    (∀ turn rest, s.script = turn :: rest → step s = { s with script := rest }.takeTurn turn) ∧
      (s.script = [] →
        step s = { s with draws := s.draws + 1 }.takeTurn (.unit (Config.freeAction s.draws)))

/-- A step that takes the CPU's whole cycle runs the instruction at PC: with a valid PC whose word decodes to i, it is
exec of i on the state the fetch and the trace event leave, and then the check point (R140, R141, R143, R146; log
entry 4). -/
def Obligations.StepRunsTheDecodedInstruction : Prop :=
  ∀ (s : State) (i : Instr), s.nextTurn = .unit .cpuCycle → s.cpuPhase = .fetch → s.running = true → s.Valid s.pc →
    decode (s.mem.read s.pc.toNat) = .ok i →
    step s =
      andThen
        (exec i
          { s.consumeTurn with
            mar := s.pc
            mdr := s.mem.read s.pc.toNat
            ir := s.mem.read s.pc.toNat
            pc := s.pc + 1
            cpuPhase := .execute
            history := .executed s.pc (s.mem.read s.pc.toNat) :: s.history })
        fun t => .next { t with cpuPhase := .check }.checkPoint

/-- The CPU's whole cycle in one turn is a run of its atomic actions, at most three, with no other agent's action between
them: it adds nothing to the interleavings of R91 (log entry 4). -/
def Obligations.CycleTurnIsARunOfCpuActions : Prop :=
  ∀ (s : State) (rest : List Turn), s.script = .unit .cpuCycle :: rest →
    ∃ k, 1 ≤ k ∧ k ≤ 3 ∧
      step s = Host.Core.run Sys2Proof.core k { s with script := List.replicate k (.unit .cpu) ++ rest }

/-- A fault or a system call behind a pending recoverable code is lost: the cycle delivers only the code that was
pending, and the run goes on (R304, R421). The one exception, SVC with AC = 0, ends the run itself (D19). -/
def Obligations.RaiseBehindAPendingCodeIsLost : Prop :=
  ∀ (s : State) (rest : List Turn), s.script = .unit .cpuCycle :: rest → s.cpuPhase = .fetch → s.running = true →
    s.Valid s.pc → s.slot.pending = true →
    s.slot.code ∈ [InterruptCode.systemCall, .clockTick, .ioCompletion] →
    ¬ (decode (s.mem.read s.pc.toNat) = .ok .svc ∧ s.ac = 0) →
    ∃ t, step s = .next t ∧ t.running = true ∧ t.cpuPhase = .fetch ∧
      t.slot = { pending := false, code := s.slot.code } ∧
      t.history = .delivered s.slot.code :: .executed s.pc (s.mem.read s.pc.toNat) :: s.history

/-! ### The timer unit -/

/-- R331: the Checking step stops the timer once Running is clear, does nothing on period 0, and otherwise goes to
sleep. -/
def Obligations.TimerCheckingStepReadsThePeriod : Prop :=
  ∀ (s : State) (rest : List Turn), s.script = .unit .timer :: rest → s.timerPhase = .checking →
    (s.running = false → step s = .next { s with script := rest, timerPhase := .stopped }) ∧
      (s.running = true → s.timerPeriod = 0 → step s = .next { s with script := rest }) ∧
      (s.running = true → s.timerPeriod ≠ 0 → step s = .next { s with script := rest, timerPhase := .sleeping })

/-- The fire step raises 3, if nothing is pending, whether or not Running holds and whatever the period has become, and
the exit step is open only once Running is clear (R225, R332, R333). Both ends of a run rest on D32; that a turn with
no enabled action changes nothing is log entry 3. -/
def Obligations.SleepingTimerFiresOrExits : Prop :=
  ∀ (s : State) (rest : List Turn), s.timerPhase = .sleeping →
    (s.script = .unit .timer :: rest →
        step s = .next { s with script := rest, slot := s.slot.raise .clockTick, timerPhase := .checking }) ∧
      (s.script = .unit .timerExit :: rest → s.running = false →
        step s = .next { s with script := rest, timerPhase := .stopped }) ∧
      (s.script = .unit .timerExit :: rest → s.running = true → step s = .next { s with script := rest })

/-- In a weakly fair run in which Running stays set, the period stays non-zero and the timer has not stopped, the timer
fires again and again, and after each fire a code is pending (R334; D38 and D43; log entry 5). -/
def Obligations.ArmedTimerFiresForEver : Prop :=
  ∀ (schedule : Nat → Turn) (run : Nat → State), IsRun schedule run → WeaklyFair schedule run →
    (∀ n, (run n).running = true ∧ (run n).timerPeriod ≠ 0 ∧ (run n).timerPhase ≠ .stopped) →
    ∀ n, ∃ m, n ≤ m ∧ (run m).timerPhase = .sleeping ∧ schedule m = .unit .timer ∧
      (run (m + 1)).slot.pending = true

/-! ### The DMA unit -/

/-- R343: the Idle step stops the unit once Running is clear, starts an armed transfer, and otherwise does nothing. -/
def Obligations.DmaIdleStepStartsAnArmedTransfer : Prop :=
  ∀ (s : State) (rest : List Turn), s.script = .unit .dma :: rest → s.dmaPhase = .idle →
    (s.running = false → step s = .next { s with script := rest, dmaPhase := .stopped }) ∧
      (s.running = true → s.dma.active = true → step s = .next { s with script := rest, dmaPhase := .busy }) ∧
      (s.running = true → s.dma.active = false → step s = .next { s with script := rest })

/-- The transfer step on legal registers moves one word between memory and its sector and sets status 0; on an illegal one
it moves nothing and sets status 1; either way it raises 4 and disarms, and mode, RB and RL have no part in it (R78,
R342). It rests on D28 (directions), D29 (registers read now), D30 (physical address), D31 (a sector holds a Word) and
D40 (status 0). The sectors the selectors name are 10,000 different places (R53). -/
def Obligations.DmaTransferMovesOneWordOrFails : Prop :=
  (∀ (s : State) (rest : List Turn), s.script = .unit .dma :: rest → s.dmaPhase = .busy →
    (s.dma.track < 10 → s.dma.cylinder < 10 → s.dma.sector < 100 → s.dma.address < 2000 →
        (s.dma.direction = 1 →
          step s =
            .next { s with
              script := rest
              disk := s.disk.write (sectorNumber s.dma.track s.dma.cylinder s.dma.sector)
                (sectorValue (s.mem.read s.dma.address))
              slot := s.slot.raise .ioCompletion
              dma := { s.dma with status := .success, active := false }
              dmaPhase := .idle }) ∧
        (s.dma.direction = 0 →
          step s =
            .next { s with
              script := rest
              mem := s.mem.write s.dma.address
                (s.disk.read (sectorNumber s.dma.track s.dma.cylinder s.dma.sector))
              slot := s.slot.raise .ioCompletion
              dma := { s.dma with status := .success, active := false }
              dmaPhase := .idle })) ∧
      (10 ≤ s.dma.track ∨ 10 ≤ s.dma.cylinder ∨ 100 ≤ s.dma.sector ∨ 2000 ≤ s.dma.address ∨ 2 ≤ s.dma.direction →
        step s =
          .next { s with
            script := rest
            slot := s.slot.raise .ioCompletion
            dma := { s.dma with status := .error, active := false }
            dmaPhase := .idle })) ∧
    ∀ t c n t' c' n' : Nat, t < 10 → c < 10 → n < 100 → t' < 10 → c' < 10 → n' < 100 →
      sectorNumber t c n < diskSize ∧ diskSize = 10000 ∧
        (sectorNumber t c n = sectorNumber t' c' n' → t = t' ∧ c = c' ∧ n = n')

/-- The exit step from Busy is open only once Running is clear, and leaves the transfer armed (R344). That both ends are
admitted rests on D32; that a turn with no enabled action changes nothing is log entry 3. -/
def Obligations.BusyDmaMayAbandonTheTransfer : Prop :=
  ∀ (s : State) (rest : List Turn), s.script = .unit .dmaExit :: rest → s.dmaPhase = .busy →
    (s.running = false → step s = .next { s with script := rest, dmaPhase := .stopped }) ∧
      (s.running = true → step s = .next { s with script := rest })

/-- The text of a Word fits a sector, so that a sector gives back the Word written to it (R341, 90_conflicts.md C11). -/
def Obligations.SectorTextKeepsEveryWord : Prop :=
  ∀ v : Int, -99999999 ≤ v → v ≤ 99999999 → sectorValue v = v

/-- The round trip of the source's example: a word written to a sector and read back at another address is there, and no
other word of memory has changed (R345). -/
def Obligations.DmaWriteThenReadReproducesTheWord : Prop :=
  ∀ (s : State) (b : Nat), s.Canonical → s.dma.Legal → s.dma.direction = 1 → b < 2000 →
    InWord (s.mem.read s.dma.address) →
    ∀ t, { s.dmaTransfer with dma := { s.dmaTransfer.dma with direction := 0, address := b } }.dmaTransfer = t →
      t.mem.read b = s.mem.read s.dma.address ∧ (∀ c, c ≠ b → t.mem.read c = s.mem.read c) ∧
        t.dma.status = .success ∧ t.dma.active = false

/-- The background units leave every CPU register, PSW, MAR, MDR, IR and Running alone. The timer writes the slot and its
phase; the DMA unit also writes one memory word or one sector, DMA.status and DMA.active, and neither touches the
other's phase (R56, R334, R345). -/
def Obligations.UnitsLeaveTheCpuAlone : Prop :=
  ∀ s t : State,
    (∀ a ∈ [UnitAction.timer, .timerExit], s.unitAction a = .next t →
        t = { s with slot := t.slot, timerPhase := t.timerPhase }) ∧
      (∀ a ∈ [UnitAction.dma, .dmaExit], s.unitAction a = .next t →
        t = { s with
          slot := t.slot
          mem := t.mem
          disk := t.disk
          dma := { s.dma with status := t.dma.status, active := t.dma.active }
          dmaPhase := t.dmaPhase } ∧
        (∀ b, b ≠ s.dma.address → t.mem.read b = s.mem.read b) ∧
        ∀ b, b ≠ sectorNumber s.dma.track s.dma.cylinder s.dma.sector → t.disk.read b = s.disk.read b)

/-! ### Reset and the host -/

/-- The state after machine start: every register, flag, word and sector 0, nothing pending or running, every unit
Stopped, user mode (R400, R402). Sector contents rest on D31 and the phases on D35; the last three fields are the model's
own (log entry 12). -/
def Obligations.ResetZeroesTheMachine : Prop :=
  ∀ s : State, s = Sys2Proof.core.reset →
    (s.ac = 0 ∧ s.rx = 0 ∧ s.mar = 0 ∧ s.mdr = 0 ∧ s.ir = 0 ∧ s.pc = 0 ∧ s.rb = 0 ∧ s.rl = 0 ∧ s.sp = 0) ∧
      (s.cc = .equal ∧ s.mode = .user ∧ s.ie = false) ∧
      (s.slot = { pending := false, code := .invalidSyscall } ∧ s.running = false ∧ s.timerPeriod = 0) ∧
      (s.dma.track = 0 ∧ s.dma.cylinder = 0 ∧ s.dma.sector = 0 ∧ s.dma.address = 0 ∧ s.dma.direction = 0 ∧
        s.dma.status = .success ∧ s.dma.active = false) ∧
      (s.cpuPhase = .stopped ∧ s.timerPhase = .stopped ∧ s.dmaPhase = .stopped) ∧
      (∀ a, s.mem.read a = 0) ∧ (∀ a, s.disk.read a = 0) ∧
      s.history = [] ∧ s.script = [] ∧ s.draws = 0

/-- A load that keeps its duties writes its words one after another and nothing else (R405). The duties rest on D33. -/
def Obligations.LoadWritesItsWordsAndNothingElse : Prop :=
  ∀ (s : State) (words : List Int) (at_ : Nat) (rest : List Turn),
    s.script = .host (.load words at_) :: rest → s.Canonical → s.AllStopped → (∀ w ∈ words, InWord w) →
    at_ + words.length ≤ 2000 →
    ∃ m : Memory, step s = .next { s with script := rest, mem := m } ∧
      (∀ (k : Nat) (h : k < words.length), m.read (at_ + k) = words[k]) ∧
      ∀ b : Nat, (b < at_ ∨ at_ + words.length ≤ b) → m.read b = s.mem.read b

/-- A dispatch sets RB, RL, PC, SP, Running and the three phases, and leaves all else as the last run left it (R404,
R406). SP rests on D22, the rest of the state on D33. -/
def Obligations.DispatchStartsTheUnits : Prop :=
  ∀ (s : State) (base limit off : Int) (rest : List Turn),
    s.script = .host (.dispatch base limit off) :: rest → s.AllStopped → InWord base → InWord limit →
    step s =
      .next { s with
        script := rest
        rb := base
        rl := limit
        pc := base + off
        sp := limit - base - 1
        running := true
        cpuPhase := .fetch
        timerPhase := .checking
        dmaPhase := .idle }

/-- The host may set the mode between runs, nothing it does has a move while a unit is not Stopped, and neither has a load
of a value that is no Word or of an address outside 0..1999, nor a dispatch whose base or limit is no Word (R403, R405,
R407, U13). It rests on D33 and D34; that a broken duty is refused is log entry 7. -/
def Obligations.HostActsOnlyWhileEveryUnitIsStopped : Prop :=
  ∀ (s : State) (rest : List Turn),
    (∀ mode : Mode, s.script = .host (.setMode mode) :: rest → s.AllStopped →
        step s = .next { s with script := rest, mode := mode }) ∧
      (∀ a : HostAction, s.script = .host a :: rest → ¬ s.AllStopped → step s = .refused .hostDutyBroken) ∧
      (∀ (words : List Int) (loadAddress : Int), s.script = .host (.load words loadAddress) :: rest →
        (∃ w ∈ words, w < -99999999 ∨ 99999999 < w) ∨ loadAddress < 0 ∨ 2000 < loadAddress + words.length →
        step s = .refused .hostDutyBroken) ∧
      ∀ base limit off : Int, s.script = .host (.dispatch base limit off) :: rest →
        base < -99999999 ∨ 99999999 < base ∨ limit < -99999999 ∨ 99999999 < limit →
        step s = .refused .hostDutyBroken

/-! ### Invariants of every step and whole-machine rules -/

/-- Reset meets each of the invariants below. -/
def Obligations.ResetMeetsTheInvariants : Prop :=
  State.reset.Canonical ∧ State.reset.WordsOnly ∧ State.reset.OperandsInRange ∧ State.reset.SlotInvariant ∧
    State.reset.UnitsInvariant

/-- Every step of every unit and of the host keeps memory and disk in canonical form, with no address beyond memory's
0..1999 and the disk's 10,000 sectors. The bounds are R52, R53 and R70; the form itself, rising addresses and no listed
0, is the model's own (log entry 1). -/
def Obligations.StepKeepsStoresCanonical : Prop :=
  ∀ s t : State, s.Canonical → step s = .next t → t.Canonical

/-- Every step keeps AC, RX, RB, RL, MDR, IR, memory and disk within the Word range (R32, R33, R44, R52, R166). That
LOADSP writes a Word from an SP outside the range is log entry 16. -/
def Obligations.StepKeepsWordsInRange : Prop :=
  ∀ s t : State, s.WordsOnly → step s = .next t → t.WordsOnly

/-- Every step keeps the timer period and the DMA parameter registers within 0..99999 (R48, R49; D17, D45). -/
def Obligations.StepKeepsDeviceOperandsInRange : Prop :=
  ∀ s t : State, s.OperandsInRange → step s = .next t → t.OperandsInRange

/-- No step makes code 0 or 1 pending, and a fatal code is pending only between its raise and the check point of the same
cycle (R303, R408; D37). -/
def Obligations.StepKeepsFatalCodesToTheirCycle : Prop :=
  ∀ s t : State, s.SlotInvariant → step s = .next t → t.SlotInvariant

/-- While Running holds no unit has stopped, and a Busy DMA unit is armed (R140, R331, R343, R408). -/
def Obligations.StepKeepsUnitsGoingWhileRunning : Prop :=
  ∀ s t : State, s.UnitsInvariant → step s = .next t → t.UnitsInvariant

/-- Among the atomic actions, only SVC with AC = 0 and the delivery of a fatal code clear Running (R148; D19). -/
def Obligations.OnlySvcOrAFatalDeliveryClearsRunning : Prop :=
  ∀ (s t : State) (turn : Turn), turn ≠ .unit .cpuCycle → s.takeTurn turn = .next t →
    s.running = true → t.running = false →
    turn = .unit .cpu ∧
      ((s.cpuPhase = .execute ∧ decode s.ir = .ok .svc ∧ s.ac = 0) ∨
        (s.cpuPhase = .check ∧ s.slot.pending = true ∧ s.slot.code.isFatal = true))

/-- Nothing but the host's set-mode action leads from user to kernel mode: no instruction, no interrupt, no unit, no
dispatch (R321; D34). -/
def Obligations.NothingEntersKernelModeFromUserMode : Prop :=
  ∀ s t : State, s.mode = .user → s.nextTurn ≠ .host (.setMode .kernel) → step s = .next t → t.mode = .user

/-- In user mode an instruction changes a word only inside [RB, RL), or, by PSH, inside [RX, RL) (R75, R77, R181, R260;
D4, D25). -/
def Obligations.UserModeStoresStayInTheirWindow : Prop :=
  ∀ (i : Instr) (s t : State) (b : Nat), s.mode = .user → exec i s = .next t → t.mem.read b ≠ s.mem.read b →
    b < 2000 ∧ (b : Int) < s.rl ∧ (s.rb ≤ b ∨ (i = .psh ∧ s.rx ≤ b))

/-- In user mode the operand of a class V instruction depends on no word outside [RB, RL) (R74, R75; D4). -/
def Obligations.UserModeOperandsSeeOnlyTheirWindow : Prop :=
  ∀ (s : State) (op : Operand) (m : Memory), s.mode = .user →
    (∀ b : Nat, s.rb ≤ b → (b : Int) < s.rl → m.read b = s.mem.read b) →
    { s with mem := m }.resolve op = s.resolve op

/-- PSW.ie gates nothing: a turn taken with another value of the flag leaves the same state, the flag aside (R40,
R305). -/
def Obligations.InterruptFlagGatesNothing : Prop :=
  ∀ (s t : State) (b : Bool) (turn : Turn), s.takeTurn turn = .next t →
    ∃ u, { s with ie := b }.takeTurn turn = .next u ∧ { u with ie := t.ie } = t

/-- A weakly fair run in which Running is clear ends: every unit comes to be Stopped (R408; D43; log entry 5). -/
def Obligations.FairRunEndsOnceRunningIsClear : Prop :=
  ∀ (schedule : Nat → Turn) (run : Nat → State), IsRun schedule run → WeaklyFair schedule run →
    (run 0).running = false → ∃ n, (run n).AllStopped
end

