-- ==== Sys2Proof/Laws/State.lean ====
section
/-! SUPPORT. One lemma per field for each named update of the state, so that no proof unfolds one of them. -/

namespace Sys2Proof.Machine

@[simp] theorem State.raise_ac (s : State) (c : InterruptCode) : (s.raise c).ac = s.ac := rfl
@[simp] theorem State.raise_rx (s : State) (c : InterruptCode) : (s.raise c).rx = s.rx := rfl
@[simp] theorem State.raise_pc (s : State) (c : InterruptCode) : (s.raise c).pc = s.pc := rfl
@[simp] theorem State.raise_cc (s : State) (c : InterruptCode) : (s.raise c).cc = s.cc := rfl
@[simp] theorem State.raise_mode (s : State) (c : InterruptCode) : (s.raise c).mode = s.mode := rfl
@[simp] theorem State.raise_ie (s : State) (c : InterruptCode) : (s.raise c).ie = s.ie := rfl
@[simp] theorem State.raise_rb (s : State) (c : InterruptCode) : (s.raise c).rb = s.rb := rfl
@[simp] theorem State.raise_rl (s : State) (c : InterruptCode) : (s.raise c).rl = s.rl := rfl
@[simp] theorem State.raise_sp (s : State) (c : InterruptCode) : (s.raise c).sp = s.sp := rfl
@[simp] theorem State.raise_mar (s : State) (c : InterruptCode) : (s.raise c).mar = s.mar := rfl
@[simp] theorem State.raise_mdr (s : State) (c : InterruptCode) : (s.raise c).mdr = s.mdr := rfl
@[simp] theorem State.raise_ir (s : State) (c : InterruptCode) : (s.raise c).ir = s.ir := rfl
@[simp] theorem State.raise_running (s : State) (c : InterruptCode) : (s.raise c).running = s.running := rfl
@[simp] theorem State.raise_slot (s : State) (c : InterruptCode) : (s.raise c).slot = s.slot.raise c := rfl
@[simp] theorem State.raise_timerPeriod (s : State) (c : InterruptCode) : (s.raise c).timerPeriod = s.timerPeriod := rfl
@[simp] theorem State.raise_dma (s : State) (c : InterruptCode) : (s.raise c).dma = s.dma := rfl
@[simp] theorem State.raise_mem (s : State) (c : InterruptCode) : (s.raise c).mem = s.mem := rfl
@[simp] theorem State.raise_disk (s : State) (c : InterruptCode) : (s.raise c).disk = s.disk := rfl
@[simp] theorem State.raise_cpuPhase (s : State) (c : InterruptCode) : (s.raise c).cpuPhase = s.cpuPhase := rfl
@[simp] theorem State.raise_timerPhase (s : State) (c : InterruptCode) : (s.raise c).timerPhase = s.timerPhase := rfl
@[simp] theorem State.raise_dmaPhase (s : State) (c : InterruptCode) : (s.raise c).dmaPhase = s.dmaPhase := rfl
@[simp] theorem State.raise_history (s : State) (c : InterruptCode) : (s.raise c).history = s.history := rfl
@[simp] theorem State.raise_script (s : State) (c : InterruptCode) : (s.raise c).script = s.script := rfl
@[simp] theorem State.raise_draws (s : State) (c : InterruptCode) : (s.raise c).draws = s.draws := rfl

@[simp] theorem State.emit_ac (s : State) (e : Event) : (s.emit e).ac = s.ac := rfl
@[simp] theorem State.emit_rx (s : State) (e : Event) : (s.emit e).rx = s.rx := rfl
@[simp] theorem State.emit_pc (s : State) (e : Event) : (s.emit e).pc = s.pc := rfl
@[simp] theorem State.emit_cc (s : State) (e : Event) : (s.emit e).cc = s.cc := rfl
@[simp] theorem State.emit_mode (s : State) (e : Event) : (s.emit e).mode = s.mode := rfl
@[simp] theorem State.emit_ie (s : State) (e : Event) : (s.emit e).ie = s.ie := rfl
@[simp] theorem State.emit_rb (s : State) (e : Event) : (s.emit e).rb = s.rb := rfl
@[simp] theorem State.emit_rl (s : State) (e : Event) : (s.emit e).rl = s.rl := rfl
@[simp] theorem State.emit_sp (s : State) (e : Event) : (s.emit e).sp = s.sp := rfl
@[simp] theorem State.emit_mar (s : State) (e : Event) : (s.emit e).mar = s.mar := rfl
@[simp] theorem State.emit_mdr (s : State) (e : Event) : (s.emit e).mdr = s.mdr := rfl
@[simp] theorem State.emit_ir (s : State) (e : Event) : (s.emit e).ir = s.ir := rfl
@[simp] theorem State.emit_running (s : State) (e : Event) : (s.emit e).running = s.running := rfl
@[simp] theorem State.emit_slot (s : State) (e : Event) : (s.emit e).slot = s.slot := rfl
@[simp] theorem State.emit_timerPeriod (s : State) (e : Event) : (s.emit e).timerPeriod = s.timerPeriod := rfl
@[simp] theorem State.emit_dma (s : State) (e : Event) : (s.emit e).dma = s.dma := rfl
@[simp] theorem State.emit_mem (s : State) (e : Event) : (s.emit e).mem = s.mem := rfl
@[simp] theorem State.emit_disk (s : State) (e : Event) : (s.emit e).disk = s.disk := rfl
@[simp] theorem State.emit_cpuPhase (s : State) (e : Event) : (s.emit e).cpuPhase = s.cpuPhase := rfl
@[simp] theorem State.emit_timerPhase (s : State) (e : Event) : (s.emit e).timerPhase = s.timerPhase := rfl
@[simp] theorem State.emit_dmaPhase (s : State) (e : Event) : (s.emit e).dmaPhase = s.dmaPhase := rfl
@[simp] theorem State.emit_history (s : State) (e : Event) : (s.emit e).history = e :: s.history := rfl
@[simp] theorem State.emit_script (s : State) (e : Event) : (s.emit e).script = s.script := rfl
@[simp] theorem State.emit_draws (s : State) (e : Event) : (s.emit e).draws = s.draws := rfl

@[simp] theorem State.memWrite_ac (s : State) (a : Int) (v : Int) : (s.memWrite a v).ac = s.ac := rfl
@[simp] theorem State.memWrite_rx (s : State) (a : Int) (v : Int) : (s.memWrite a v).rx = s.rx := rfl
@[simp] theorem State.memWrite_pc (s : State) (a : Int) (v : Int) : (s.memWrite a v).pc = s.pc := rfl
@[simp] theorem State.memWrite_cc (s : State) (a : Int) (v : Int) : (s.memWrite a v).cc = s.cc := rfl
@[simp] theorem State.memWrite_mode (s : State) (a : Int) (v : Int) : (s.memWrite a v).mode = s.mode := rfl
@[simp] theorem State.memWrite_ie (s : State) (a : Int) (v : Int) : (s.memWrite a v).ie = s.ie := rfl
@[simp] theorem State.memWrite_rb (s : State) (a : Int) (v : Int) : (s.memWrite a v).rb = s.rb := rfl
@[simp] theorem State.memWrite_rl (s : State) (a : Int) (v : Int) : (s.memWrite a v).rl = s.rl := rfl
@[simp] theorem State.memWrite_sp (s : State) (a : Int) (v : Int) : (s.memWrite a v).sp = s.sp := rfl
@[simp] theorem State.memWrite_mar (s : State) (a : Int) (v : Int) : (s.memWrite a v).mar = s.mar := rfl
@[simp] theorem State.memWrite_mdr (s : State) (a : Int) (v : Int) : (s.memWrite a v).mdr = s.mdr := rfl
@[simp] theorem State.memWrite_ir (s : State) (a : Int) (v : Int) : (s.memWrite a v).ir = s.ir := rfl
@[simp] theorem State.memWrite_running (s : State) (a : Int) (v : Int) : (s.memWrite a v).running = s.running := rfl
@[simp] theorem State.memWrite_slot (s : State) (a : Int) (v : Int) : (s.memWrite a v).slot = s.slot := rfl
@[simp] theorem State.memWrite_timerPeriod (s : State) (a : Int) (v : Int) : (s.memWrite a v).timerPeriod = s.timerPeriod := rfl
@[simp] theorem State.memWrite_dma (s : State) (a : Int) (v : Int) : (s.memWrite a v).dma = s.dma := rfl
@[simp] theorem State.memWrite_mem (s : State) (a : Int) (v : Int) : (s.memWrite a v).mem = s.mem.write a.toNat v := rfl
@[simp] theorem State.memWrite_disk (s : State) (a : Int) (v : Int) : (s.memWrite a v).disk = s.disk := rfl
@[simp] theorem State.memWrite_cpuPhase (s : State) (a : Int) (v : Int) : (s.memWrite a v).cpuPhase = s.cpuPhase := rfl
@[simp] theorem State.memWrite_timerPhase (s : State) (a : Int) (v : Int) : (s.memWrite a v).timerPhase = s.timerPhase := rfl
@[simp] theorem State.memWrite_dmaPhase (s : State) (a : Int) (v : Int) : (s.memWrite a v).dmaPhase = s.dmaPhase := rfl
@[simp] theorem State.memWrite_history (s : State) (a : Int) (v : Int) : (s.memWrite a v).history = s.history := rfl
@[simp] theorem State.memWrite_script (s : State) (a : Int) (v : Int) : (s.memWrite a v).script = s.script := rfl
@[simp] theorem State.memWrite_draws (s : State) (a : Int) (v : Int) : (s.memWrite a v).draws = s.draws := rfl

@[simp] theorem State.diskWrite_ac (s : State) (t c n : Nat) (v : Int) : (s.diskWrite t c n v).ac = s.ac := rfl
@[simp] theorem State.diskWrite_rx (s : State) (t c n : Nat) (v : Int) : (s.diskWrite t c n v).rx = s.rx := rfl
@[simp] theorem State.diskWrite_pc (s : State) (t c n : Nat) (v : Int) : (s.diskWrite t c n v).pc = s.pc := rfl
@[simp] theorem State.diskWrite_cc (s : State) (t c n : Nat) (v : Int) : (s.diskWrite t c n v).cc = s.cc := rfl
@[simp] theorem State.diskWrite_mode (s : State) (t c n : Nat) (v : Int) : (s.diskWrite t c n v).mode = s.mode := rfl
@[simp] theorem State.diskWrite_ie (s : State) (t c n : Nat) (v : Int) : (s.diskWrite t c n v).ie = s.ie := rfl
@[simp] theorem State.diskWrite_rb (s : State) (t c n : Nat) (v : Int) : (s.diskWrite t c n v).rb = s.rb := rfl
@[simp] theorem State.diskWrite_rl (s : State) (t c n : Nat) (v : Int) : (s.diskWrite t c n v).rl = s.rl := rfl
@[simp] theorem State.diskWrite_sp (s : State) (t c n : Nat) (v : Int) : (s.diskWrite t c n v).sp = s.sp := rfl
@[simp] theorem State.diskWrite_mar (s : State) (t c n : Nat) (v : Int) : (s.diskWrite t c n v).mar = s.mar := rfl
@[simp] theorem State.diskWrite_mdr (s : State) (t c n : Nat) (v : Int) : (s.diskWrite t c n v).mdr = s.mdr := rfl
@[simp] theorem State.diskWrite_ir (s : State) (t c n : Nat) (v : Int) : (s.diskWrite t c n v).ir = s.ir := rfl
@[simp] theorem State.diskWrite_running (s : State) (t c n : Nat) (v : Int) : (s.diskWrite t c n v).running = s.running := rfl
@[simp] theorem State.diskWrite_slot (s : State) (t c n : Nat) (v : Int) : (s.diskWrite t c n v).slot = s.slot := rfl
@[simp] theorem State.diskWrite_timerPeriod (s : State) (t c n : Nat) (v : Int) : (s.diskWrite t c n v).timerPeriod = s.timerPeriod := rfl
@[simp] theorem State.diskWrite_dma (s : State) (t c n : Nat) (v : Int) : (s.diskWrite t c n v).dma = s.dma := rfl
@[simp] theorem State.diskWrite_mem (s : State) (t c n : Nat) (v : Int) : (s.diskWrite t c n v).mem = s.mem := rfl
@[simp] theorem State.diskWrite_disk (s : State) (t c n : Nat) (v : Int) : (s.diskWrite t c n v).disk = s.disk.write (sectorNumber t c n) (sectorValue v) := rfl
@[simp] theorem State.diskWrite_cpuPhase (s : State) (t c n : Nat) (v : Int) : (s.diskWrite t c n v).cpuPhase = s.cpuPhase := rfl
@[simp] theorem State.diskWrite_timerPhase (s : State) (t c n : Nat) (v : Int) : (s.diskWrite t c n v).timerPhase = s.timerPhase := rfl
@[simp] theorem State.diskWrite_dmaPhase (s : State) (t c n : Nat) (v : Int) : (s.diskWrite t c n v).dmaPhase = s.dmaPhase := rfl
@[simp] theorem State.diskWrite_history (s : State) (t c n : Nat) (v : Int) : (s.diskWrite t c n v).history = s.history := rfl
@[simp] theorem State.diskWrite_script (s : State) (t c n : Nat) (v : Int) : (s.diskWrite t c n v).script = s.script := rfl
@[simp] theorem State.diskWrite_draws (s : State) (t c n : Nat) (v : Int) : (s.diskWrite t c n v).draws = s.draws := rfl

@[simp] theorem State.arithFault_ac (s : State) (c : InterruptCode) : (s.arithFault c).ac = s.ac := rfl
@[simp] theorem State.arithFault_rx (s : State) (c : InterruptCode) : (s.arithFault c).rx = s.rx := rfl
@[simp] theorem State.arithFault_pc (s : State) (c : InterruptCode) : (s.arithFault c).pc = s.pc := rfl
@[simp] theorem State.arithFault_cc (s : State) (c : InterruptCode) : (s.arithFault c).cc = .fault := rfl
@[simp] theorem State.arithFault_mode (s : State) (c : InterruptCode) : (s.arithFault c).mode = s.mode := rfl
@[simp] theorem State.arithFault_ie (s : State) (c : InterruptCode) : (s.arithFault c).ie = s.ie := rfl
@[simp] theorem State.arithFault_rb (s : State) (c : InterruptCode) : (s.arithFault c).rb = s.rb := rfl
@[simp] theorem State.arithFault_rl (s : State) (c : InterruptCode) : (s.arithFault c).rl = s.rl := rfl
@[simp] theorem State.arithFault_sp (s : State) (c : InterruptCode) : (s.arithFault c).sp = s.sp := rfl
@[simp] theorem State.arithFault_mar (s : State) (c : InterruptCode) : (s.arithFault c).mar = s.mar := rfl
@[simp] theorem State.arithFault_mdr (s : State) (c : InterruptCode) : (s.arithFault c).mdr = s.mdr := rfl
@[simp] theorem State.arithFault_ir (s : State) (c : InterruptCode) : (s.arithFault c).ir = s.ir := rfl
@[simp] theorem State.arithFault_running (s : State) (c : InterruptCode) : (s.arithFault c).running = s.running := rfl
@[simp] theorem State.arithFault_slot (s : State) (c : InterruptCode) : (s.arithFault c).slot = s.slot.raise c := rfl
@[simp] theorem State.arithFault_timerPeriod (s : State) (c : InterruptCode) : (s.arithFault c).timerPeriod = s.timerPeriod := rfl
@[simp] theorem State.arithFault_dma (s : State) (c : InterruptCode) : (s.arithFault c).dma = s.dma := rfl
@[simp] theorem State.arithFault_mem (s : State) (c : InterruptCode) : (s.arithFault c).mem = s.mem := rfl
@[simp] theorem State.arithFault_disk (s : State) (c : InterruptCode) : (s.arithFault c).disk = s.disk := rfl
@[simp] theorem State.arithFault_cpuPhase (s : State) (c : InterruptCode) : (s.arithFault c).cpuPhase = s.cpuPhase := rfl
@[simp] theorem State.arithFault_timerPhase (s : State) (c : InterruptCode) : (s.arithFault c).timerPhase = s.timerPhase := rfl
@[simp] theorem State.arithFault_dmaPhase (s : State) (c : InterruptCode) : (s.arithFault c).dmaPhase = s.dmaPhase := rfl
@[simp] theorem State.arithFault_history (s : State) (c : InterruptCode) : (s.arithFault c).history = s.history := rfl
@[simp] theorem State.arithFault_script (s : State) (c : InterruptCode) : (s.arithFault c).script = s.script := rfl
@[simp] theorem State.arithFault_draws (s : State) (c : InterruptCode) : (s.arithFault c).draws = s.draws := rfl

@[simp] theorem State.jumpTo_ac (s : State) (n : Nat) : (s.jumpTo n).ac = s.ac := rfl
@[simp] theorem State.jumpTo_rx (s : State) (n : Nat) : (s.jumpTo n).rx = s.rx := rfl
@[simp] theorem State.jumpTo_pc (s : State) (n : Nat) : (s.jumpTo n).pc = s.rb + n := rfl
@[simp] theorem State.jumpTo_cc (s : State) (n : Nat) : (s.jumpTo n).cc = s.cc := rfl
@[simp] theorem State.jumpTo_mode (s : State) (n : Nat) : (s.jumpTo n).mode = s.mode := rfl
@[simp] theorem State.jumpTo_ie (s : State) (n : Nat) : (s.jumpTo n).ie = s.ie := rfl
@[simp] theorem State.jumpTo_rb (s : State) (n : Nat) : (s.jumpTo n).rb = s.rb := rfl
@[simp] theorem State.jumpTo_rl (s : State) (n : Nat) : (s.jumpTo n).rl = s.rl := rfl
@[simp] theorem State.jumpTo_sp (s : State) (n : Nat) : (s.jumpTo n).sp = s.sp := rfl
@[simp] theorem State.jumpTo_mar (s : State) (n : Nat) : (s.jumpTo n).mar = s.mar := rfl
@[simp] theorem State.jumpTo_mdr (s : State) (n : Nat) : (s.jumpTo n).mdr = s.mdr := rfl
@[simp] theorem State.jumpTo_ir (s : State) (n : Nat) : (s.jumpTo n).ir = s.ir := rfl
@[simp] theorem State.jumpTo_running (s : State) (n : Nat) : (s.jumpTo n).running = s.running := rfl
@[simp] theorem State.jumpTo_slot (s : State) (n : Nat) : (s.jumpTo n).slot = s.slot := rfl
@[simp] theorem State.jumpTo_timerPeriod (s : State) (n : Nat) : (s.jumpTo n).timerPeriod = s.timerPeriod := rfl
@[simp] theorem State.jumpTo_dma (s : State) (n : Nat) : (s.jumpTo n).dma = s.dma := rfl
@[simp] theorem State.jumpTo_mem (s : State) (n : Nat) : (s.jumpTo n).mem = s.mem := rfl
@[simp] theorem State.jumpTo_disk (s : State) (n : Nat) : (s.jumpTo n).disk = s.disk := rfl
@[simp] theorem State.jumpTo_cpuPhase (s : State) (n : Nat) : (s.jumpTo n).cpuPhase = s.cpuPhase := rfl
@[simp] theorem State.jumpTo_timerPhase (s : State) (n : Nat) : (s.jumpTo n).timerPhase = s.timerPhase := rfl
@[simp] theorem State.jumpTo_dmaPhase (s : State) (n : Nat) : (s.jumpTo n).dmaPhase = s.dmaPhase := rfl
@[simp] theorem State.jumpTo_history (s : State) (n : Nat) : (s.jumpTo n).history = s.history := rfl
@[simp] theorem State.jumpTo_script (s : State) (n : Nat) : (s.jumpTo n).script = s.script := rfl
@[simp] theorem State.jumpTo_draws (s : State) (n : Nat) : (s.jumpTo n).draws = s.draws := rfl

@[simp] theorem State.dispatched_ac (s : State) (base limit off : Int) : (s.dispatched base limit off).ac = s.ac := rfl
@[simp] theorem State.dispatched_rx (s : State) (base limit off : Int) : (s.dispatched base limit off).rx = s.rx := rfl
@[simp] theorem State.dispatched_pc (s : State) (base limit off : Int) : (s.dispatched base limit off).pc = base + off := rfl
@[simp] theorem State.dispatched_cc (s : State) (base limit off : Int) : (s.dispatched base limit off).cc = s.cc := rfl
@[simp] theorem State.dispatched_mode (s : State) (base limit off : Int) : (s.dispatched base limit off).mode = s.mode := rfl
@[simp] theorem State.dispatched_ie (s : State) (base limit off : Int) : (s.dispatched base limit off).ie = s.ie := rfl
@[simp] theorem State.dispatched_rb (s : State) (base limit off : Int) : (s.dispatched base limit off).rb = base := rfl
@[simp] theorem State.dispatched_rl (s : State) (base limit off : Int) : (s.dispatched base limit off).rl = limit := rfl
@[simp] theorem State.dispatched_sp (s : State) (base limit off : Int) : (s.dispatched base limit off).sp = limit - base - 1 := rfl
@[simp] theorem State.dispatched_mar (s : State) (base limit off : Int) : (s.dispatched base limit off).mar = s.mar := rfl
@[simp] theorem State.dispatched_mdr (s : State) (base limit off : Int) : (s.dispatched base limit off).mdr = s.mdr := rfl
@[simp] theorem State.dispatched_ir (s : State) (base limit off : Int) : (s.dispatched base limit off).ir = s.ir := rfl
@[simp] theorem State.dispatched_running (s : State) (base limit off : Int) : (s.dispatched base limit off).running = true := rfl
@[simp] theorem State.dispatched_slot (s : State) (base limit off : Int) : (s.dispatched base limit off).slot = s.slot := rfl
@[simp] theorem State.dispatched_timerPeriod (s : State) (base limit off : Int) : (s.dispatched base limit off).timerPeriod = s.timerPeriod := rfl
@[simp] theorem State.dispatched_dma (s : State) (base limit off : Int) : (s.dispatched base limit off).dma = s.dma := rfl
@[simp] theorem State.dispatched_mem (s : State) (base limit off : Int) : (s.dispatched base limit off).mem = s.mem := rfl
@[simp] theorem State.dispatched_disk (s : State) (base limit off : Int) : (s.dispatched base limit off).disk = s.disk := rfl
@[simp] theorem State.dispatched_cpuPhase (s : State) (base limit off : Int) : (s.dispatched base limit off).cpuPhase = .fetch := rfl
@[simp] theorem State.dispatched_timerPhase (s : State) (base limit off : Int) : (s.dispatched base limit off).timerPhase = .checking := rfl
@[simp] theorem State.dispatched_dmaPhase (s : State) (base limit off : Int) : (s.dispatched base limit off).dmaPhase = .idle := rfl
@[simp] theorem State.dispatched_history (s : State) (base limit off : Int) : (s.dispatched base limit off).history = s.history := rfl
@[simp] theorem State.dispatched_script (s : State) (base limit off : Int) : (s.dispatched base limit off).script = s.script := rfl
@[simp] theorem State.dispatched_draws (s : State) (base limit off : Int) : (s.dispatched base limit off).draws = s.draws := rfl

@[simp] theorem State.consumeTurn_ac (s : State) : s.consumeTurn.ac = s.ac := by
  unfold State.consumeTurn; split <;> rfl
@[simp] theorem State.consumeTurn_rx (s : State) : s.consumeTurn.rx = s.rx := by
  unfold State.consumeTurn; split <;> rfl
@[simp] theorem State.consumeTurn_pc (s : State) : s.consumeTurn.pc = s.pc := by
  unfold State.consumeTurn; split <;> rfl
@[simp] theorem State.consumeTurn_cc (s : State) : s.consumeTurn.cc = s.cc := by
  unfold State.consumeTurn; split <;> rfl
@[simp] theorem State.consumeTurn_mode (s : State) : s.consumeTurn.mode = s.mode := by
  unfold State.consumeTurn; split <;> rfl
@[simp] theorem State.consumeTurn_ie (s : State) : s.consumeTurn.ie = s.ie := by
  unfold State.consumeTurn; split <;> rfl
@[simp] theorem State.consumeTurn_rb (s : State) : s.consumeTurn.rb = s.rb := by
  unfold State.consumeTurn; split <;> rfl
@[simp] theorem State.consumeTurn_rl (s : State) : s.consumeTurn.rl = s.rl := by
  unfold State.consumeTurn; split <;> rfl
@[simp] theorem State.consumeTurn_sp (s : State) : s.consumeTurn.sp = s.sp := by
  unfold State.consumeTurn; split <;> rfl
@[simp] theorem State.consumeTurn_mar (s : State) : s.consumeTurn.mar = s.mar := by
  unfold State.consumeTurn; split <;> rfl
@[simp] theorem State.consumeTurn_mdr (s : State) : s.consumeTurn.mdr = s.mdr := by
  unfold State.consumeTurn; split <;> rfl
@[simp] theorem State.consumeTurn_ir (s : State) : s.consumeTurn.ir = s.ir := by
  unfold State.consumeTurn; split <;> rfl
@[simp] theorem State.consumeTurn_running (s : State) : s.consumeTurn.running = s.running := by
  unfold State.consumeTurn; split <;> rfl
@[simp] theorem State.consumeTurn_slot (s : State) : s.consumeTurn.slot = s.slot := by
  unfold State.consumeTurn; split <;> rfl
@[simp] theorem State.consumeTurn_timerPeriod (s : State) : s.consumeTurn.timerPeriod = s.timerPeriod := by
  unfold State.consumeTurn; split <;> rfl
@[simp] theorem State.consumeTurn_dma (s : State) : s.consumeTurn.dma = s.dma := by
  unfold State.consumeTurn; split <;> rfl
@[simp] theorem State.consumeTurn_mem (s : State) : s.consumeTurn.mem = s.mem := by
  unfold State.consumeTurn; split <;> rfl
@[simp] theorem State.consumeTurn_disk (s : State) : s.consumeTurn.disk = s.disk := by
  unfold State.consumeTurn; split <;> rfl
@[simp] theorem State.consumeTurn_cpuPhase (s : State) : s.consumeTurn.cpuPhase = s.cpuPhase := by
  unfold State.consumeTurn; split <;> rfl
@[simp] theorem State.consumeTurn_timerPhase (s : State) : s.consumeTurn.timerPhase = s.timerPhase := by
  unfold State.consumeTurn; split <;> rfl
@[simp] theorem State.consumeTurn_dmaPhase (s : State) : s.consumeTurn.dmaPhase = s.dmaPhase := by
  unfold State.consumeTurn; split <;> rfl
@[simp] theorem State.consumeTurn_history (s : State) : s.consumeTurn.history = s.history := by
  unfold State.consumeTurn; split <;> rfl

end Sys2Proof.Machine
end

