-- ==== Sys2Proof/Laws/Memory.lean ====
section
/-! SUPPORT. Reads after writes, and the canonical form of memory and disk. -/

namespace Sys2Proof

/-- A read of the address just written gives the word written. -/
@[simp] theorem Memory.read_write_same (m : Memory) (a : Nat) (v : Int)
    (h : List.Pairwise (fun c d : Nat × Int => c.1 < d.1) m) : (m.write a v).read a = v := by
  have absent : ∀ (l : Memory), (∀ c ∈ l, a < c.1) → Memory.read l a = 0 := by
    intro l hl
    induction l with
    | nil => rfl
    | cons c l ih =>
      have h1 := hl c (by simp)
      simp only [Memory.read, if_neg (by omega : ¬ c.1 = a)]
      exact ih fun d hd => hl d (by simp [hd])
  induction m with
  | nil => by_cases hv : v = 0 <;> simp [Memory.write, Memory.read, hv]
  | cons c rest ih =>
    obtain ⟨k, w⟩ := c
    obtain ⟨hk, hrest⟩ := List.pairwise_cons.mp h
    simp only [Memory.write]
    split
    · rename_i hlt
      split
      · rename_i hv
        rw [hv]
        exact absent _ (by rintro d (_ | ⟨_, hd⟩); exacts [hlt, Nat.lt_trans hlt (hk d hd)])
      · simp [Memory.read]
    · split
      · rename_i hak
        split
        · rename_i hv
          rw [hv]
          exact absent _ fun d hd => hak ▸ hk d hd
        · simp [Memory.read]
      · rename_i hne
        rw [Memory.read, if_neg (Ne.symm hne)]
        exact ih hrest

/-- A write leaves every other address as it was, in canonical form or not. -/
theorem Memory.read_write_other (m : Memory) (a b : Nat) (v : Int) (h : b ≠ a) :
    (m.write a v).read b = m.read b := by
  induction m with
  | nil => by_cases hv : v = 0 <;> simp [Memory.write, Memory.read, hv, Ne.symm h]
  | cons c rest ih =>
    obtain ⟨k, w⟩ := c
    simp only [Memory.write]
    split
    · split
      · rfl
      · rw [Memory.read, if_neg (Ne.symm h)]
    · split
      · rename_i hak
        split
        · rw [Memory.read, if_neg (by omega)]
        · rw [Memory.read, Memory.read, if_neg (Ne.symm h), if_neg (by omega)]
      · simp only [Memory.read]
        split
        · rfl
        · exact ih

/-- Every entry after a write was there before or is the word written. -/
theorem Memory.mem_write (m : Memory) (a : Nat) (v : Int) (c : Nat × Int) (h : c ∈ m.write a v) :
    c ∈ m ∨ (c = (a, v) ∧ v ≠ 0) := by
  induction m with
  | nil =>
    simp only [Memory.write] at h
    split at h <;> simp_all
  | cons d rest ih =>
    simp only [Memory.write] at h
    split at h
    · split at h <;> simp_all
      tauto
    · split at h
      · split at h <;> simp_all
        tauto
      · rcases List.mem_cons.mp h with rfl | h
        · simp
        · rcases ih h with h | h
          · simp [h]
          · exact Or.inr h

/-- A write inside the address space keeps the canonical form. -/
theorem Memory.wf_write (size : Nat) (m : Memory) (a : Nat) (v : Int) (hm : Memory.wf size m) (ha : a < size) :
    Memory.wf size (m.write a v) := by
  refine ⟨?_, fun c hc => ?_⟩
  · obtain ⟨hs, -⟩ := hm
    induction m with
    | nil => simp only [Memory.write]; split <;> simp
    | cons d rest ih =>
      obtain ⟨hd, hrest⟩ := List.pairwise_cons.mp hs
      simp only [Memory.write]
      split
      · rename_i hlt
        split
        · exact hs
        · refine List.pairwise_cons.mpr ⟨?_, hs⟩
          rintro e (_ | ⟨_, he⟩)
          exacts [hlt, Nat.lt_trans hlt (hd e he)]
      · split
        · rename_i hak
          split
          · exact hrest
          · exact List.pairwise_cons.mpr ⟨fun e he => hak ▸ hd e he, hrest⟩
        · rename_i hnlt hne
          refine List.pairwise_cons.mpr ⟨fun e he => ?_, ih hrest⟩
          rcases Memory.mem_write rest a v e he with he | ⟨rfl, -⟩
          · exact hd e he
          · simp only; omega
  · rcases Memory.mem_write m a v c hc with h | ⟨rfl, h⟩
    exacts [hm.2 c h, ⟨h, ha⟩]

/-- What a read gives: a listed word, or 0. -/
theorem Memory.read_mem_or_zero (m : Memory) (a : Nat) : (a, m.read a) ∈ m ∨ m.read a = 0 := by
  induction m with
  | nil => exact Or.inr rfl
  | cons c rest ih =>
    obtain ⟨k, w⟩ := c
    by_cases h : k = a
    · simp [Memory.read, h]
    · simp only [Memory.read, if_neg h, List.mem_cons]
      tauto

namespace Machine

/-- If every listed word is in range, so is every word read. -/
theorem inWord_read {m : Memory} (h : ∀ c ∈ m, InWord c.2) (a : Nat) : InWord (m.read a) := by
  rcases Memory.read_mem_or_zero m a with hm | hm
  · exact h _ hm
  · rw [hm]; decide

/-- A write of a word in range keeps every listed word in range. -/
theorem inWord_write {m : Memory} (h : ∀ c ∈ m, InWord c.2) (a : Nat) {v : Int} (hv : InWord v) :
    ∀ c ∈ m.write a v, InWord c.2 := by
  intro c hc
  rcases Memory.mem_write m a v c hc with hm | ⟨rfl, -⟩
  exacts [h c hm, hv]

/-- A load inside the address space keeps the canonical form. -/
theorem wf_loadWords (size : Nat) (words : List Int) :
    ∀ (m : Memory) (a : Nat), Memory.wf size m → a + words.length ≤ size →
      Memory.wf size (loadWords m a words) := by
  induction words with
  | nil => intro m a hm _; exact hm
  | cons w rest ih =>
    intro m a hm ha
    simp only [List.length_cons] at ha
    exact ih _ _ (Memory.wf_write size m a w hm (by omega)) (by omega)

/-- A load of words in range keeps every listed word in range. -/
theorem inWord_loadWords (words : List Int) :
    ∀ (m : Memory) (a : Nat), (∀ c ∈ m, InWord c.2) → (∀ w ∈ words, InWord w) →
      ∀ c ∈ loadWords m a words, InWord c.2 := by
  induction words with
  | nil => intro m a hm _; exact hm
  | cons w rest ih =>
    intro m a hm hw
    exact ih _ _ (inWord_write hm a (hw w (by simp))) fun x hx => hw x (by simp [hx])

/-- The sector numbers of the disk's sectors lie below its size. -/
theorem sectorNumber_lt {t c n : Nat} (ht : t < Config.diskTracks) (hc : c < Config.diskCylinders)
    (hn : n < Config.diskSectors) : sectorNumber t c n < diskSize := by
  simp only [sectorNumber, diskSize, Config.diskTracks, Config.diskCylinders, Config.diskSectors] at *
  omega

/-- Different sectors have different numbers. -/
theorem sectorNumber_inj {t c n t' c' n' : Nat} (hc : c < Config.diskCylinders) (hn : n < Config.diskSectors)
    (hc' : c' < Config.diskCylinders) (hn' : n' < Config.diskSectors)
    (h : sectorNumber t c n = sectorNumber t' c' n') : t = t' ∧ c = c' ∧ n = n' := by
  simp only [sectorNumber, Config.diskCylinders, Config.diskSectors] at *
  omega

end Machine

end Sys2Proof
end

