-- ==== Sys2Proof/Laws/Operands.lean ====
section
/-! SUPPORT. What the shared operations can answer: operand resolution, the result check, the stack's checks. -/

namespace Sys2Proof.Machine

/-- The address check, spelled out for this hardware's parameters (R75). -/
theorem valid_iff (s : State) (a : Int) :
    s.Valid a ↔ 0 ≤ a ∧ a < 2000 ∧ (s.mode = .kernel ∨ (s.rb ≤ a ∧ a < s.rl)) := by
  simp only [State.Valid, InMachine, BelowLimit, Config.limitInclusive, Config.memWords, and_assoc]
  simp

/-- The machine bound, spelled out. -/
theorem inMachine_iff (a : Int) : InMachine a ↔ 0 ≤ a ∧ a < 2000 := Iff.rfl

/-- The Word range, spelled out. -/
theorem inWord_iff (v : Int) : InWord v ↔ -99999999 ≤ v ∧ v ≤ 99999999 := Iff.rfl

/-- A checked read of a valid address. -/
theorem readChecked_valid {s : State} {a : Int} (h : s.Valid a) : s.readChecked a = .ok (s.memRead a) := if_pos h

/-- A checked read of another address. -/
theorem readChecked_invalid {s : State} {a : Int} (h : ¬ s.Valid a) : s.readChecked a = .error .invalidAddress :=
  if_neg h

/-- A valid address passes the check. -/
theorem checked_valid {s : State} {a : Int} (h : s.Valid a) : s.checked a = .ok a := if_pos h

/-- Another address does not. -/
theorem checked_invalid {s : State} {a : Int} (h : ¬ s.Valid a) : s.checked a = .error .invalidAddress := if_neg h

/-- A class V rule runs on the operand it has. -/
theorem withValue_ok {s : State} {op : Operand} {v : Int} (h : s.resolve op = .ok v) (rule : Int → State) :
    s.withValue op rule = .next (rule v) := by
  simp only [State.withValue, h]

/-- A class V rule without an operand raises. -/
theorem withValue_error {s : State} {op : Operand} {c : InterruptCode} (h : s.resolve op = .error c)
    (rule : Int → State) : s.withValue op rule = .next (s.raise c) := by
  simp only [State.withValue, h]

/-- A class S rule runs on the target it has. -/
theorem withTarget_ok {s : State} {op : Operand} {a : Int} (h : s.target op = .ok a) (rule : Int → State) :
    s.withTarget op rule = .next (rule a) := by
  simp only [State.withTarget, h]

/-- A class S rule without a target raises. -/
theorem withTarget_error {s : State} {op : Operand} {c : InterruptCode} (h : s.target op = .error c)
    (rule : Int → State) : s.withTarget op rule = .next (s.raise c) := by
  simp only [State.withTarget, h]

/-- Indexed mode adds AC (R73). -/
@[simp] theorem State.index_eq (s : State) : s.index = s.ac := rfl

/-- A class V rule ran on its operand, or its operand's code was raised and nothing else happened. -/
theorem withValue_cases {s t : State} {op : Operand} {rule : Int → State} (h : s.withValue op rule = .next t) :
    (∃ v, s.resolve op = .ok v ∧ t = rule v) ∨ ∃ c, s.resolve op = .error c ∧ t = s.raise c := by
  unfold State.withValue at h
  split at h <;> cases h
  exacts [.inl ⟨_, ‹_›, rfl⟩, .inr ⟨_, ‹_›, rfl⟩]

/-- A class S rule ran on its target, or its target's code was raised and nothing else happened. -/
theorem withTarget_cases {s t : State} {op : Operand} {rule : Int → State} (h : s.withTarget op rule = .next t) :
    (∃ a, s.target op = .ok a ∧ t = rule a) ∨ ∃ c, s.target op = .error c ∧ t = s.raise c := by
  unfold State.withTarget at h
  split at h <;> cases h
  exacts [.inl ⟨_, ‹_›, rfl⟩, .inr ⟨_, ‹_›, rfl⟩]

/-- A checked read gives the word of a valid address, or code 6 for another address. -/
theorem readChecked_cases (s : State) (a : Int) :
    (s.Valid a ∧ s.readChecked a = .ok (s.memRead a)) ∨ (¬ s.Valid a ∧ s.readChecked a = .error .invalidAddress) := by
  unfold State.readChecked
  split
  exacts [.inl ⟨‹_›, rfl⟩, .inr ⟨‹_›, rfl⟩]

/-- A checked address is valid; another one gives code 6. -/
theorem checked_cases (s : State) (a : Int) :
    (s.Valid a ∧ s.checked a = .ok a) ∨ (¬ s.Valid a ∧ s.checked a = .error .invalidAddress) := by
  unfold State.checked
  split
  exacts [.inl ⟨‹_›, rfl⟩, .inr ⟨‹_›, rfl⟩]

/-- A resolved value is an immediate or the word of a valid address. -/
theorem resolve_ok {s : State} {op : Operand} {v : Int} (h : s.resolve op = .ok v) :
    (∃ n : Nat, op = .immediate n ∧ v = n) ∨ ∃ a, s.Valid a ∧ v = s.memRead a := by
  cases op with
  | immediate n => cases h; exact .inl ⟨n, rfl, rfl⟩
  | illegalMode m n => cases h
  | direct n =>
    rcases readChecked_cases s (s.rb + n) with ⟨hv, e⟩ | ⟨-, e⟩ <;> rw [State.resolve, e] at h <;> cases h
    exact .inr ⟨_, hv, rfl⟩
  | indexed n =>
    rcases readChecked_cases s (s.rb + s.index + n) with ⟨hv, e⟩ | ⟨-, e⟩ <;> rw [State.resolve, e] at h <;> cases h
    exact .inr ⟨_, hv, rfl⟩

/-- Resolving an operand raises 5 or 6 and no other code. -/
theorem resolve_error {s : State} {op : Operand} {c : InterruptCode} (h : s.resolve op = .error c) :
    c = .illegalInstruction ∨ c = .invalidAddress := by
  cases op with
  | immediate n => cases h
  | illegalMode m n => cases h; exact .inl rfl
  | direct n =>
    rcases readChecked_cases s (s.rb + n) with ⟨-, e⟩ | ⟨-, e⟩ <;> rw [State.resolve, e] at h <;> cases h
    exact .inr rfl
  | indexed n =>
    rcases readChecked_cases s (s.rb + s.index + n) with ⟨-, e⟩ | ⟨-, e⟩ <;> rw [State.resolve, e] at h <;> cases h
    exact .inr rfl

/-- A store target is a valid address. -/
theorem target_ok {s : State} {op : Operand} {a : Int} (h : s.target op = .ok a) : s.Valid a := by
  cases op with
  | immediate n => cases h
  | illegalMode m n => cases h
  | direct n =>
    rcases checked_cases s (s.rb + n) with ⟨hv, e⟩ | ⟨-, e⟩ <;> rw [State.target, e] at h <;> cases h
    exact hv
  | indexed n =>
    rcases checked_cases s (s.rb + s.index + n) with ⟨hv, e⟩ | ⟨-, e⟩ <;> rw [State.target, e] at h <;> cases h
    exact hv

/-- Finding a store target raises 5 or 6 and no other code. -/
theorem target_error {s : State} {op : Operand} {c : InterruptCode} (h : s.target op = .error c) :
    c = .illegalInstruction ∨ c = .invalidAddress := by
  cases op with
  | immediate n => cases h; exact .inr rfl
  | illegalMode m n => cases h; exact .inl rfl
  | direct n =>
    rcases checked_cases s (s.rb + n) with ⟨-, e⟩ | ⟨-, e⟩ <;> rw [State.target, e] at h <;> cases h
    exact .inr rfl
  | indexed n =>
    rcases checked_cases s (s.rb + s.index + n) with ⟨-, e⟩ | ⟨-, e⟩ <;> rw [State.target, e] at h <;> cases h
    exact .inr rfl

/-- The result check: the result is stored with its sign, or cc becomes 3 and 7 or 8 is raised (R160). -/
theorem arithCommit_cases (s : State) (r : Int) :
    (InWord r ∧ s.arithCommit r = { s with ac := r, cc := signCode r }) ∨
      (Config.wordMax < r ∧ s.arithCommit r = s.arithFault .stackOverflowOrArithmetic) ∨
      (r < Config.wordMin ∧ s.arithCommit r = s.arithFault .stackUnderflow) := by
  unfold State.arithCommit
  split
  · exact .inr (.inl ⟨‹_›, rfl⟩)
  · split
    · exact .inr (.inr ⟨‹_›, rfl⟩)
    · exact .inl ⟨⟨by omega, by omega⟩, rfl⟩

/-- A result in the Word range is stored. -/
theorem arithCommit_inWord {r : Int} (h : InWord r) (s : State) :
    s.arithCommit r = { s with ac := r, cc := signCode r } := by
  rw [inWord_iff] at h
  rw [State.arithCommit, if_neg (by simp only [Config.wordMax]; omega), if_neg (by simp only [Config.wordMin]; omega)]

/-- A result above the Word range faults with 8. -/
theorem arithCommit_above {r : Int} (h : 99999999 < r) (s : State) :
    s.arithCommit r = s.arithFault .stackOverflowOrArithmetic := if_pos h

/-- A result below the Word range faults with 7. -/
theorem arithCommit_below {r : Int} (h : r < -99999999) (s : State) :
    s.arithCommit r = s.arithFault .stackUnderflow := by
  rw [State.arithCommit, if_neg (by simp only [Config.wordMax]; omega), if_pos (by simp only [Config.wordMin]; omega)]

/-- The quotient of R163 is the truncated quotient of the integers. -/
theorem tdiv_eq (a b : Int) (hb : b ≠ 0) : tdiv a b = Int.tdiv a b := by
  simp only [tdiv, signFactor]
  rcases Int.lt_or_le a 0 with ha | ha <;> rcases Int.lt_or_le b 0 with hb' | hb'
  · rw [if_neg (by omega), if_neg (by omega)]
    obtain ⟨x, rfl⟩ := Int.exists_eq_neg_ofNat (Int.le_of_lt ha)
    obtain ⟨y, rfl⟩ := Int.exists_eq_neg_ofNat (Int.le_of_lt hb')
    simp [Int.tdiv_neg, Int.neg_tdiv]
  · rw [if_neg (by omega), if_pos hb']
    obtain ⟨x, rfl⟩ := Int.exists_eq_neg_ofNat (Int.le_of_lt ha)
    obtain ⟨y, rfl⟩ := Int.eq_ofNat_of_zero_le hb'
    simp [Int.neg_tdiv]
  · rw [if_pos ha, if_neg (by omega)]
    obtain ⟨x, rfl⟩ := Int.eq_ofNat_of_zero_le ha
    obtain ⟨y, rfl⟩ := Int.exists_eq_neg_ofNat (Int.le_of_lt hb')
    simp [Int.tdiv_neg]
  · rw [if_pos ha, if_pos hb']
    obtain ⟨x, rfl⟩ := Int.eq_ofNat_of_zero_le ha
    obtain ⟨y, rfl⟩ := Int.eq_ofNat_of_zero_le hb'
    simp

/-- A push goes to RB + SP when that lies in [RX, RL) and in memory. -/
theorem pushSlot_ok {s : State} {a : Int} (h : s.pushSlot = .ok a) :
    a = s.pushAddress ∧ s.rx ≤ a ∧ a < s.rl ∧ InMachine a := by
  unfold State.pushSlot at h
  split at h
  · cases h
  · split at h
    · cases h; exact ⟨rfl, by omega, by omega, ‹_›⟩
    · cases h

/-- A push inside its bounds has its slot. -/
theorem pushSlot_of_bounds {s : State} (h1 : s.rx ≤ s.rb + s.sp) (h2 : s.rb + s.sp < s.rl) (h3 : 0 ≤ s.rb + s.sp)
    (h4 : s.rb + s.sp < 2000) : s.pushSlot = .ok (s.rb + s.sp) := by
  have e : s.pushAddress = s.rb + s.sp := rfl
  rw [State.pushSlot, if_neg (by omega), if_pos ((inMachine_iff _).mpr ⟨by omega, by omega⟩), e]

/-- A push outside [RX, RL) overflows. -/
theorem pushSlot_overflow {s : State} (h : s.rb + s.sp < s.rx ∨ s.rl ≤ s.rb + s.sp) :
    s.pushSlot = .error .stackOverflowOrArithmetic := if_pos h

/-- A push that would leave memory has no address. -/
theorem pushSlot_outside {s : State} (h1 : s.rx ≤ s.rb + s.sp) (h2 : s.rb + s.sp < s.rl)
    (h : s.rb + s.sp < 0 ∨ 2000 ≤ s.rb + s.sp) : s.pushSlot = .error .invalidAddress := by
  have e : s.pushAddress = s.rb + s.sp := rfl
  rw [State.pushSlot, if_neg (by omega), if_neg (by rw [inMachine_iff]; omega)]

/-- A push raises 6 or 8 and no other code. -/
theorem pushSlot_error {s : State} {c : InterruptCode} (h : s.pushSlot = .error c) :
    c = .invalidAddress ∨ c = .stackOverflowOrArithmetic := by
  unfold State.pushSlot at h
  split at h
  · cases h; exact .inr rfl
  · split at h <;> cases h
    exact .inl rfl

/-- A pop comes from RB + SP + 1 when that lies below RL and in memory. -/
theorem popSlot_ok {s : State} {a : Int} (h : s.popSlot = .ok a) :
    a = s.popAddress ∧ a < s.rl ∧ InMachine a := by
  unfold State.popSlot at h
  split at h
  · cases h
  · split at h
    · cases h; exact ⟨rfl, by unfold State.popAddress; omega, ‹_›⟩
    · cases h

/-- A pop inside its bounds has its word. -/
theorem popSlot_of_bounds {s : State} (h2 : s.rb + s.sp + 1 < s.rl) (h3 : 0 ≤ s.rb + s.sp + 1)
    (h4 : s.rb + s.sp + 1 < 2000) : s.popSlot = .ok (s.rb + s.sp + 1) := by
  have e : s.popAddress = s.rb + s.sp + 1 := (Int.add_assoc ..).symm
  rw [State.popSlot, if_neg (by omega), if_pos ((inMachine_iff _).mpr ⟨by omega, by omega⟩), e]

/-- A pop past the sentinel underflows. -/
theorem popSlot_underflow {s : State} (h : s.rl ≤ s.rb + s.sp + 1) : s.popSlot = .error .stackUnderflow :=
  if_pos (by omega)

/-- A pop that would leave memory has no address. -/
theorem popSlot_outside {s : State} (h2 : s.rb + s.sp + 1 < s.rl)
    (h : s.rb + s.sp + 1 < 0 ∨ 2000 ≤ s.rb + s.sp + 1) : s.popSlot = .error .invalidAddress := by
  have e : s.popAddress = s.rb + s.sp + 1 := (Int.add_assoc ..).symm
  rw [State.popSlot, if_neg (by omega), if_neg (by rw [inMachine_iff]; omega)]

/-- A pop raises 6 or 7 and no other code. -/
theorem popSlot_error {s : State} {c : InterruptCode} (h : s.popSlot = .error c) :
    c = .invalidAddress ∨ c = .stackUnderflow := by
  unfold State.popSlot at h
  split at h
  · cases h; exact .inr rfl
  · split at h <;> cases h
    exact .inl rfl

/-- A drawn Word is a Word. -/
theorem freeWord_inWord (k : Nat) : InWord (Config.freeWord k) := by
  have h := (Config.freeOffset k).isLt
  simp only [inWord_iff, Config.freeWord, Config.wordMin]
  omega

/-- LOADSP copies an SP in the Word range, and draws a Word for another one. -/
theorem execLoadsp_cases (s : State) :
    (InWord s.sp ∧ execLoadsp s = .next { s with ac := s.sp }) ∨
      (¬ InWord s.sp ∧ execLoadsp s = .next { s with ac := Config.freeWord s.draws, draws := s.draws + 1 }) := by
  unfold execLoadsp
  split
  exacts [.inl ⟨‹_›, rfl⟩, .inr ⟨‹_›, rfl⟩]

end Sys2Proof.Machine
end

