-- ==== Sys2Proof/Laws/Cycle.lean ====
section
/-! SUPPORT. What the units' actions and a step can do. -/

namespace Sys2Proof.Machine

@[simp] theorem andThen_next (s : State) (k : State → StepResult) : andThen (.next s) k = k s := rfl

/-- A sequence of two actions answers a next state only through a next state of the first. -/
theorem andThen_eq_next {r : StepResult} {k : State → StepResult} {t : State} (h : andThen r k = .next t) :
    ∃ m, r = .next m ∧ k m = .next t := by
  cases r with
  | next m => exact ⟨m, rfl, h⟩
  | fault f => cases h
  | refused f => cases h

/-- The slot after a raise is the one before it, or holds the code raised (R302). -/
theorem slot_raise_cases (slot : Slot) (c : InterruptCode) :
    (slot.pending = true ∧ slot.raise c = slot) ∨
      (slot.pending = false ∧ slot.raise c = { pending := true, code := c }) := by
  cases h : slot.pending <;> simp [Slot.raise, h]

/-- After a raise the slot is pending. -/
@[simp] theorem slot_raise_pending (slot : Slot) (c : InterruptCode) : (slot.raise c).pending = true := by
  rcases slot_raise_cases slot c with ⟨h, e⟩ | ⟨-, e⟩ <;> simp [e]
  exact h

/-- The fetch takes the word at PC, or raises 6 and reads nothing (R141). -/
theorem fetchAction_cases (s : State) :
    (s.Valid s.pc ∧
        s.fetchAction =
          { s with
            mar := s.pc
            mdr := s.memRead s.pc
            ir := s.memRead s.pc
            pc := s.pc + 1
            cpuPhase := .execute }) ∨
      (¬ s.Valid s.pc ∧
        s.fetchAction = { s with mar := s.pc, cpuPhase := .check, slot := s.slot.raise .invalidAddress }) := by
  unfold State.fetchAction
  split
  exacts [.inl ⟨‹_›, rfl⟩, .inr ⟨‹_›, rfl⟩]

/-- The check point delivers and clears what is pending, or only moves on (R146). -/
theorem checkPoint_cases (s : State) :
    (s.slot.pending = false ∧ s.checkPoint = { s with cpuPhase := .fetch }) ∨
      (s.slot.pending = true ∧
        s.checkPoint =
          { s with
            history := .delivered s.slot.code :: s.history
            running := if s.slot.code.isFatal then false else s.running
            slot := { s.slot with pending := false }
            cpuPhase := .fetch }) := by
  unfold State.checkPoint
  cases h : s.slot.pending
  exacts [.inl ⟨rfl, rfl⟩, .inr ⟨rfl, rfl⟩]

/-- The execute action is the meaning of the word in IR, or code 5, between the trace event and the check point. -/
theorem executeAction_cases {s t : State} (h : s.executeAction = .next t) :
    (∃ i m, decode s.ir = .ok i ∧ exec i (s.emit (.executed s.mar s.ir)) = .next m ∧
        t = { m with cpuPhase := .check }) ∨
      (∃ e, decode s.ir = .error e ∧
        t = { (s.emit (.executed s.mar s.ir)).raise .illegalInstruction with cpuPhase := .check }) := by
  obtain ⟨m, hm, ht⟩ := andThen_eq_next h
  cases ht
  unfold State.executeIr at hm
  split at hm
  · exact .inl ⟨_, m, ‹_›, hm, rfl⟩
  · cases hm
    exact .inr ⟨_, ‹_›, rfl⟩

/-- A step with a turn on its script takes that turn. -/
theorem step_of_script {s : State} {turn : Turn} {rest : List Turn} (h : s.script = turn :: rest) :
    step s = { s with script := rest }.takeTurn turn := by
  simp [step, State.consumeTurn, State.nextTurn, h]

/-- A step with a spent script takes the turn the free value gives. -/
theorem step_of_spent_script {s : State} (h : s.script = []) :
    step s = { s with draws := s.draws + 1 }.takeTurn (.unit (Config.freeAction s.draws)) := by
  simp [step, State.consumeTurn, State.nextTurn, h]

/-- A step is one turn taken from a state that differs in the schedule alone. -/
theorem step_eq (s : State) : step s = s.consumeTurn.takeTurn s.nextTurn := rfl

end Sys2Proof.Machine
end

