-- ==== Sys2Proof/Laws/Decode.lean ====
section
/-! SUPPORT. The fields of composed words, and the opcodes that name no instruction. -/

namespace Sys2Proof

@[simp] theorem fieldWellFormed_iff (n : Nat) : fieldWellFormed n = true ↔ n ≤ 99999 := decide_eq_true_iff

/-- The fields of a composed word are the ones it was composed of (R111, R112). -/
theorem decode_composeWord (op m n : Nat) (hm : m ≤ 9) (hn : n ≤ 99999) :
    decode (composeWord op m n) = instrOf op m n := by
  have h1 : opcodeDigits (op * 1000000 + m * 100000 + n) = op := by simp only [opcodeDigits]; omega
  have h2 : modeDigit (op * 1000000 + m * 100000 + n) = m := by simp only [modeDigit]; omega
  have h3 : operandDigits (op * 1000000 + m * 100000 + n) = n := by simp only [operandDigits]; omega
  show instrOf (opcodeDigits _) (modeDigit _) (operandDigits _) = _
  rw [h1, h2, h3]

/-- An opcode above 33 names no instruction (R114). -/
theorem instrOf_above (op m n : Nat) (h : 34 ≤ op) : instrOf op m n = .error .unrecognizedOpcode := by
  obtain ⟨k, rfl⟩ : ∃ k, op = k + 34 := ⟨op - 34, by omega⟩
  rfl

/-- The digits of any word fit their fields. -/
theorem digits_fit (w : Nat) : modeDigit w ≤ 9 ∧ operandDigits w ≤ 99999 := by
  simp only [modeDigit, operandDigits]; omega

/-- The operand of two fields in range is well formed. -/
theorem operandOf_wellFormed {m n : Nat} (hm : m ≤ 9) (hn : n ≤ 99999) : (operandOf m n).wellFormed = true := by
  match m, hm with
  | 0, _ => exact (fieldWellFormed_iff n).mpr hn
  | 1, _ => exact (fieldWellFormed_iff n).mpr hn
  | 2, _ => exact (fieldWellFormed_iff n).mpr hn
  | k + 3, hm =>
    simp only [operandOf, Operand.wellFormed, Bool.and_eq_true, decide_eq_true_eq, fieldWellFormed_iff]
    omega

/-- The operand of two fields is spelled with the same two fields. -/
@[simp] theorem encodeOperand_operandOf (op m n : Nat) : encodeOperand op (operandOf m n) = composeWord op m n := by
  match m with
  | 0 => rfl
  | 1 => rfl
  | 2 => rfl
  | _ + 3 => rfl

/-- A well-formed operand is that of two fields in range. -/
theorem operand_fields {o : Operand} (h : o.wellFormed = true) : ∃ m n, m ≤ 9 ∧ n ≤ 99999 ∧ o = operandOf m n := by
  cases o with
  | direct n => exact ⟨0, n, by omega, (fieldWellFormed_iff n).mp h, rfl⟩
  | immediate n => exact ⟨1, n, by omega, (fieldWellFormed_iff n).mp h, rfl⟩
  | indexed n => exact ⟨2, n, by omega, (fieldWellFormed_iff n).mp h, rfl⟩
  | illegalMode m n =>
    simp only [Operand.wellFormed, Bool.and_eq_true, decide_eq_true_eq, fieldWellFormed_iff] at h
    obtain ⟨k, rfl⟩ : ∃ k, m = k + 3 := ⟨m - 3, by omega⟩
    exact ⟨k + 3, n, h.1.2, h.2, rfl⟩

end Sys2Proof
end

