-- ==== Sys2Proof/Laws/PerInstr.lean ====
section
/-! SUPPORT. Facts about every instruction as syntax, one lemma per constructor. -/

namespace Sys2Proof.Laws

/-- The word of the fields OP, M and N is an eight-digit word whose opcode field is OP (R110, R111). -/
theorem composeWord_spells {op m n : Nat} (hop : op < Config.opcodeCount) (hm : m ≤ 9) (hn : n ≤ Config.operandMax) :
    0 ≤ composeWord op m n ∧ Machine.InWord (composeWord op m n) ∧ composeWord op m n / 1000000 = op := by
  simp only [composeWord, Machine.InWord, Config.wordMin, Config.wordMax, Config.opcodeCount, Config.operandMax] at *
  omega

/-- The word of a class V or S instruction is an eight-digit word with its opcode. -/
theorem encodeOperand_spells {op : Nat} (hop : op < Config.opcodeCount) {o : Operand} (ho : o.wellFormed = true) :
    0 ≤ encodeOperand op o ∧ Machine.InWord (encodeOperand op o) ∧ encodeOperand op o / 1000000 = op := by
  cases o with
  | direct n => exact composeWord_spells hop (by omega) (by simpa [Operand.wellFormed, fieldWellFormed] using ho)
  | immediate n => exact composeWord_spells hop (by omega) (by simpa [Operand.wellFormed, fieldWellFormed] using ho)
  | indexed n => exact composeWord_spells hop (by omega) (by simpa [Operand.wellFormed, fieldWellFormed] using ho)
  | illegalMode m n =>
    simp only [Operand.wellFormed, fieldWellFormed, Bool.and_eq_true, decide_eq_true_eq] at ho
    exact composeWord_spells hop ho.1.2 ho.2

/-- A well-formed instruction is spelled by a non-negative Word with an opcode of the map (R110, R118). -/
def SpellsAWord.Statement (i : Instr) : Prop :=
  i.wellFormed = true →
    0 ≤ encode i ∧ Machine.InWord (encode i) ∧ encode i / 1000000 < Config.opcodeCount

theorem SpellsAWord.add (op : Operand) : SpellsAWord.Statement (.add op) := fun h => by
  obtain ⟨a, b, e⟩ := encodeOperand_spells (op := 0) (by decide) h
  exact ⟨a, b, by rw [encode, e]; decide⟩

theorem SpellsAWord.sub (op : Operand) : SpellsAWord.Statement (.sub op) := fun h => by
  obtain ⟨a, b, e⟩ := encodeOperand_spells (op := 1) (by decide) h
  exact ⟨a, b, by rw [encode, e]; decide⟩

theorem SpellsAWord.mul (op : Operand) : SpellsAWord.Statement (.mul op) := fun h => by
  obtain ⟨a, b, e⟩ := encodeOperand_spells (op := 2) (by decide) h
  exact ⟨a, b, by rw [encode, e]; decide⟩

theorem SpellsAWord.div (op : Operand) : SpellsAWord.Statement (.div op) := fun h => by
  obtain ⟨a, b, e⟩ := encodeOperand_spells (op := 3) (by decide) h
  exact ⟨a, b, by rw [encode, e]; decide⟩

theorem SpellsAWord.load (op : Operand) : SpellsAWord.Statement (.load op) := fun h => by
  obtain ⟨a, b, e⟩ := encodeOperand_spells (op := 4) (by decide) h
  exact ⟨a, b, by rw [encode, e]; decide⟩

theorem SpellsAWord.store (op : Operand) : SpellsAWord.Statement (.store op) := fun h => by
  obtain ⟨a, b, e⟩ := encodeOperand_spells (op := 5) (by decide) h
  exact ⟨a, b, by rw [encode, e]; decide⟩

theorem SpellsAWord.loadrx (op : Operand) : SpellsAWord.Statement (.loadrx op) := fun h => by
  obtain ⟨a, b, e⟩ := encodeOperand_spells (op := 6) (by decide) h
  exact ⟨a, b, by rw [encode, e]; decide⟩

theorem SpellsAWord.strrx (op : Operand) : SpellsAWord.Statement (.strrx op) := fun h => by
  obtain ⟨a, b, e⟩ := encodeOperand_spells (op := 7) (by decide) h
  exact ⟨a, b, by rw [encode, e]; decide⟩

theorem SpellsAWord.comp (op : Operand) : SpellsAWord.Statement (.comp op) := fun h => by
  obtain ⟨a, b, e⟩ := encodeOperand_spells (op := 8) (by decide) h
  exact ⟨a, b, by rw [encode, e]; decide⟩

theorem SpellsAWord.jmpe (n : Nat) : SpellsAWord.Statement (.jmpe n) := fun h => by
  obtain ⟨a, b, e⟩ := composeWord_spells (op := 9) (m := 0) (n := n) (by decide) (by decide) (of_decide_eq_true h)
  exact ⟨a, b, by rw [encode, e]; decide⟩

theorem SpellsAWord.jmpne (n : Nat) : SpellsAWord.Statement (.jmpne n) := fun h => by
  obtain ⟨a, b, e⟩ := composeWord_spells (op := 10) (m := 0) (n := n) (by decide) (by decide) (of_decide_eq_true h)
  exact ⟨a, b, by rw [encode, e]; decide⟩

theorem SpellsAWord.jmplt (n : Nat) : SpellsAWord.Statement (.jmplt n) := fun h => by
  obtain ⟨a, b, e⟩ := composeWord_spells (op := 11) (m := 0) (n := n) (by decide) (by decide) (of_decide_eq_true h)
  exact ⟨a, b, by rw [encode, e]; decide⟩

theorem SpellsAWord.jmplgt (n : Nat) : SpellsAWord.Statement (.jmplgt n) := fun h => by
  obtain ⟨a, b, e⟩ := composeWord_spells (op := 12) (m := 0) (n := n) (by decide) (by decide) (of_decide_eq_true h)
  exact ⟨a, b, by rw [encode, e]; decide⟩

theorem SpellsAWord.svc : SpellsAWord.Statement .svc := fun _ => by decide

theorem SpellsAWord.retrn : SpellsAWord.Statement .retrn := fun _ => by decide

theorem SpellsAWord.hab : SpellsAWord.Statement .hab := fun _ => by decide

theorem SpellsAWord.dhab : SpellsAWord.Statement .dhab := fun _ => by decide

theorem SpellsAWord.tti (n : Nat) : SpellsAWord.Statement (.tti n) := fun h => by
  obtain ⟨a, b, e⟩ := composeWord_spells (op := 17) (m := 0) (n := n) (by decide) (by decide) (of_decide_eq_true h)
  exact ⟨a, b, by rw [encode, e]; decide⟩

theorem SpellsAWord.chmod (n : Nat) : SpellsAWord.Statement (.chmod n) := fun h => by
  obtain ⟨a, b, e⟩ := composeWord_spells (op := 18) (m := 0) (n := n) (by decide) (by decide) (of_decide_eq_true h)
  exact ⟨a, b, by rw [encode, e]; decide⟩

theorem SpellsAWord.loadrb : SpellsAWord.Statement .loadrb := fun _ => by decide

theorem SpellsAWord.strrb : SpellsAWord.Statement .strrb := fun _ => by decide

theorem SpellsAWord.loadrl : SpellsAWord.Statement .loadrl := fun _ => by decide

theorem SpellsAWord.strrl : SpellsAWord.Statement .strrl := fun _ => by decide

theorem SpellsAWord.loadsp : SpellsAWord.Statement .loadsp := fun _ => by decide

theorem SpellsAWord.strsp : SpellsAWord.Statement .strsp := fun _ => by decide

theorem SpellsAWord.psh : SpellsAWord.Statement .psh := fun _ => by decide

theorem SpellsAWord.pop : SpellsAWord.Statement .pop := fun _ => by decide

theorem SpellsAWord.j (n : Nat) : SpellsAWord.Statement (.j n) := fun h => by
  obtain ⟨a, b, e⟩ := composeWord_spells (op := 27) (m := 0) (n := n) (by decide) (by decide) (of_decide_eq_true h)
  exact ⟨a, b, by rw [encode, e]; decide⟩

theorem SpellsAWord.sdmap (n : Nat) : SpellsAWord.Statement (.sdmap n) := fun h => by
  obtain ⟨a, b, e⟩ := composeWord_spells (op := 28) (m := 0) (n := n) (by decide) (by decide) (of_decide_eq_true h)
  exact ⟨a, b, by rw [encode, e]; decide⟩

theorem SpellsAWord.sdmac (n : Nat) : SpellsAWord.Statement (.sdmac n) := fun h => by
  obtain ⟨a, b, e⟩ := composeWord_spells (op := 29) (m := 0) (n := n) (by decide) (by decide) (of_decide_eq_true h)
  exact ⟨a, b, by rw [encode, e]; decide⟩

theorem SpellsAWord.sdmas (n : Nat) : SpellsAWord.Statement (.sdmas n) := fun h => by
  obtain ⟨a, b, e⟩ := composeWord_spells (op := 30) (m := 0) (n := n) (by decide) (by decide) (of_decide_eq_true h)
  exact ⟨a, b, by rw [encode, e]; decide⟩

theorem SpellsAWord.sdmaio (n : Nat) : SpellsAWord.Statement (.sdmaio n) := fun h => by
  obtain ⟨a, b, e⟩ := composeWord_spells (op := 31) (m := 0) (n := n) (by decide) (by decide) (of_decide_eq_true h)
  exact ⟨a, b, by rw [encode, e]; decide⟩

theorem SpellsAWord.sdmam (n : Nat) : SpellsAWord.Statement (.sdmam n) := fun h => by
  obtain ⟨a, b, e⟩ := composeWord_spells (op := 32) (m := 0) (n := n) (by decide) (by decide) (of_decide_eq_true h)
  exact ⟨a, b, by rw [encode, e]; decide⟩

theorem SpellsAWord.sdmaon : SpellsAWord.Statement .sdmaon := fun _ => by decide

end Sys2Proof.Laws
end

