-- ==== Sys2Proof/Tests/Slice0.lean ====
section
/-! SUPPORT. Tests and witnesses. Expected results are those of 95_test_vectors.md (E<n>, V<n>), of its jump
table, and of the opcode map R118; a witness shows that the premises of a statement can be met. -/

namespace Sys2Proof.Tests

open Sys2Proof Sys2Proof.Machine

/-! ### Well-formed terms -/

/-- An operand of six digits is no field, in any form and in each class (R110, R116). -/
theorem test_operand_of_six_digits_is_ill_formed :
    (Instr.add (.direct 100000)).wellFormed = false ∧ (Instr.load (.immediate 100000)).wellFormed = false ∧
      (Instr.store (.indexed 100000)).wellFormed = false ∧ (Instr.comp (.illegalMode 3 100000)).wellFormed = false ∧
      (Instr.jmpe 100000).wellFormed = false ∧ (Instr.j 100000).wellFormed = false ∧
      (Instr.tti 100000).wellFormed = false ∧ (Instr.sdmam 100000).wellFormed = false := by decide

/-- An illegal mode digit is one of 3..9 (R115). -/
theorem test_legal_or_wide_mode_digit_is_ill_formed :
    (Instr.load (.illegalMode 2 0)).wellFormed = false ∧ (Instr.load (.illegalMode 10 0)).wellFormed = false := by
  decide

/-! ### Decoding: one word of each row of the opcode map, with its ignored digits not 0 where it has any -/

theorem test_decode_arithmetic :
    decode 50 = .ok (.add (.direct 50)) ∧
      decode 101005 = .ok (.add (.immediate 1005)) ∧
      decode 1200007 = .ok (.sub (.indexed 7)) ∧
      decode 2110001 = .ok (.mul (.immediate 10001)) ∧
      decode 3000010 = .ok (.div (.direct 10)) := by decide

theorem test_decode_data_movement_and_compare :
    decode 4200005 = .ok (.load (.indexed 5)) ∧
      decode 5000050 = .ok (.store (.direct 50)) ∧
      decode 6100380 = .ok (.loadrx (.immediate 380)) ∧
      decode 7900005 = .ok (.strrx (.illegalMode 9 5)) ∧
      decode 8399999 = .ok (.comp (.illegalMode 3 99999)) := by decide

theorem test_decode_jumps :
    decode 9000004 = .ok (.jmpe 4) ∧
      decode 10100004 = .ok (.jmpne 4) ∧
      decode 11200004 = .ok (.jmplt 4) ∧
      decode 12399999 = .ok (.jmplgt 99999) ∧
      decode 27900005 = .ok (.j 5) := by decide

theorem test_decode_system :
    decode 13000000 = .ok .svc ∧
      decode 15123456 = .ok .hab ∧
      decode 16999999 = .ok .dhab ∧
      decode 17500005 = .ok (.tti 5) ∧
      decode 18900001 = .ok (.chmod 1) := by decide

theorem test_decode_register_access :
    decode 19000000 = .ok .loadrb ∧
      decode 20000001 = .ok .strrb ∧
      decode 21900000 = .ok .loadrl ∧
      decode 22000022 = .ok .strrl ∧
      decode 23100000 = .ok .loadsp ∧
      decode 24099999 = .ok .strsp := by decide

theorem test_decode_stack :
    decode 25000000 = .ok .psh ∧
      decode 26300000 = .ok .pop ∧
      decode 14000009 = .ok .retrn := by decide

theorem test_decode_dma_configuration :
    decode 28100007 = .ok (.sdmap 7) ∧
      decode 29099999 = .ok (.sdmac 99999) ∧
      decode 30000042 = .ok (.sdmas 42) ∧
      decode 31000002 = .ok (.sdmaio 2) ∧
      decode 32000320 = .ok (.sdmam 320) ∧
      decode 33999999 = .ok .sdmaon := by decide

/-- V3, V4, V5, and the words next to the map's end. -/
theorem test_decode_rejects_by_name :
    decode 34000000 = .error .unrecognizedOpcode ∧ decode 99999999 = .error .unrecognizedOpcode ∧
      decode (-1) = .error .negative ∧ decodeTableWord 32 34000000 = none ∧
      decodeTableWord 32 33000000 = some .sdmaon := by decide

/-! ### One step -/

/-- The vectors' start state S0, with these words loaded. -/
def start (mem : Memory) : State := { State.reset.dispatched 300 400 0 with mem := mem }

/-- S0 in kernel mode. -/
def kernelStart (mem : Memory) : State := { start mem with mode := .kernel }

/-- One CPU cycle on the word w, put at PC. -/
def cycle (s : State) (w : Int) : StepResult := step { s.memWrite s.pc w with script := [.unit .cpuCycle] }

/-- One turn of a unit. -/
def turn (s : State) (a : UnitAction) : StepResult := step { s with script := [.unit a] }

/-- The step answers a next state, with this property. -/
def reaches (r : StepResult) (p : State → Bool) : Bool :=
  match r with
  | .next s => p s
  | .fault _ => false
  | .refused _ => false

/-- The cycle that left this state executed one word and delivered exactly these codes, and Running is as they leave
it. -/
def delivers (s : State) (codes : List InterruptCode) : Bool :=
  decide (s.history.length = codes.length + 1) && decide (s.history.take codes.length = codes.map .delivered) &&
    (s.running == !codes.any InterruptCode.isFatal) && !s.slot.pending

/-- V31. -/
theorem test_add_indexed :
    reaches (cycle { start [(307, 10)] with ac := 2 } 200005)
      (fun t => decide (t.ac = 12 ∧ t.cc = .greater ∧ t.pc = 301) && delivers t []) = true := by decide

/-- E1: the result is not stored. -/
theorem test_add_overflow :
    reaches (cycle { start [] with ac := 99999999 } 100001)
      (fun t => decide (t.ac = 99999999 ∧ t.cc = .fault) && delivers t [.stackOverflowOrArithmetic]) = true := by
  decide

/-- V33. -/
theorem test_sub_negative :
    reaches (cycle { start [] with ac := 5 } 1100007)
      (fun t => decide (t.ac = -2 ∧ t.cc = .less) && delivers t []) = true := by decide

/-- V34. -/
theorem test_sub_underflow :
    reaches (cycle { start [] with ac := -99999999 } 1100001)
      (fun t => decide (t.ac = -99999999 ∧ t.cc = .fault) && delivers t [.stackUnderflow]) = true := by decide

/-- V35. -/
theorem test_mul_largest :
    reaches (cycle { start [] with ac := 9999 } 2110001)
      (fun t => decide (t.ac = 99999999 ∧ t.cc = .greater) && delivers t []) = true := by decide

/-- V37. -/
theorem test_mul_underflow :
    reaches (cycle { start [] with ac := -10000 } 2110000)
      (fun t => decide (t.ac = -10000 ∧ t.cc = .fault) && delivers t [.stackUnderflow]) = true := by decide

/-- V40. -/
theorem test_div_truncates :
    reaches (cycle { start [(310, -2)] with ac := 7 } 3000010)
      (fun t => decide (t.ac = -3 ∧ t.cc = .less) && delivers t []) = true := by decide

/-- V43. -/
theorem test_div_by_zero :
    reaches (cycle { start [] with ac := 5 } 3100000)
      (fun t => decide (t.ac = 5 ∧ t.cc = .fault) && delivers t [.stackOverflowOrArithmetic]) = true := by decide

/-- V22: RX is not the index. -/
theorem test_load_indexed_by_ac :
    reaches (cycle { start [(307, 10), (310, 99)] with ac := 2, rx := 5 } 4200005)
      (fun t => decide (t.ac = 10 ∧ t.rx = 5 ∧ t.cc = .equal) && delivers t []) = true := by decide

/-- V23: RL itself is not owned. -/
theorem test_load_at_limit :
    reaches (cycle { start [] with ac := 3 } 4000100)
      (fun t => decide (t.ac = 3) && delivers t [.invalidAddress]) = true := by decide

/-- V53. -/
theorem test_store_indexed :
    reaches (cycle { start [] with ac := 5 } 5200000)
      (fun t => decide (t.mem.read 305 = 5 ∧ t.ac = 5) && delivers t []) = true := by decide

/-- V25. -/
theorem test_store_immediate :
    reaches (cycle { start [] with ac := 1 } 5100005)
      (fun t => decide (t.mem = [(300, 5100005)]) && delivers t [.invalidAddress]) = true := by decide

/-- V55. -/
theorem test_loadrx :
    reaches (cycle (start []) 6100380)
      (fun t => decide (t.rx = 380 ∧ t.ac = 0 ∧ t.cc = .equal) && delivers t []) = true := by decide

/-- V6's rule, on LOADRX. -/
theorem test_loadrx_illegal_mode :
    reaches (cycle { start [] with rx := 9 } 6300380)
      (fun t => decide (t.rx = 9) && delivers t [.illegalInstruction]) = true := by decide

/-- V56. -/
theorem test_strrx :
    reaches (cycle { start [] with rx := 380, ac := 4 } 7000005)
      (fun t => decide (t.mem.read 305 = 380) && delivers t []) = true := by decide

/-- V57. -/
theorem test_strrx_immediate :
    reaches (cycle { start [] with rx := 380 } 7100005)
      (fun t => decide (t.mem = [(300, 7100005)]) && delivers t [.invalidAddress]) = true := by decide

/-- V64. -/
theorem test_comp_is_exact :
    reaches (cycle { start [(310, 99999999)] with ac := -99999999 } 8000010)
      (fun t => decide (t.cc = .less ∧ t.ac = -99999999) && delivers t []) = true := by decide

/-- V65: cc stays. -/
theorem test_comp_fault :
    reaches (cycle { start [] with ac := 3, cc := .greater } 8000100)
      (fun t => decide (t.cc = .greater) && delivers t [.invalidAddress]) = true := by decide

/-- The jump table. -/
theorem test_jmpe_taken :
    reaches (cycle { start [] with cc := .equal } 9000004)
      (fun t => decide (t.pc = 304 ∧ t.cc = .equal) && delivers t []) = true := by decide

/-- The jump table. -/
theorem test_jmpe_not_taken :
    reaches (cycle { start [] with cc := .less } 9000004)
      (fun t => decide (t.pc = 301) && delivers t []) = true := by decide

/-- The jump table. -/
theorem test_jmpne_taken :
    reaches (cycle { start [] with cc := .fault } 10000004)
      (fun t => decide (t.pc = 304 ∧ t.cc = .fault) && delivers t []) = true := by decide

/-- The jump table. -/
theorem test_jmpne_not_taken :
    reaches (cycle { start [] with cc := .equal } 10000004)
      (fun t => decide (t.pc = 301) && delivers t []) = true := by decide

/-- The jump table. -/
theorem test_jmplt_taken :
    reaches (cycle { start [] with cc := .less } 11000004)
      (fun t => decide (t.pc = 304 ∧ t.cc = .less) && delivers t []) = true := by decide

/-- The jump table. -/
theorem test_jmplt_not_taken :
    reaches (cycle { start [] with cc := .fault } 11000004)
      (fun t => decide (t.pc = 301) && delivers t []) = true := by decide

/-- The jump table. -/
theorem test_jmplgt_taken :
    reaches (cycle { start [] with cc := .greater } 12000004)
      (fun t => decide (t.pc = 304 ∧ t.cc = .greater) && delivers t []) = true := by decide

/-- The jump table. -/
theorem test_jmplgt_not_taken :
    reaches (cycle { start [] with cc := .fault } 12000004)
      (fun t => decide (t.pc = 301) && delivers t []) = true := by decide

/-- V68: relative to RB in kernel mode too. -/
theorem test_j_kernel :
    reaches (cycle { kernelStart [] with pc := 7, cc := .fault } 27000000)
      (fun t => decide (t.pc = 300) && delivers t []) = true := by decide

/-- V66: no fault at the jump. -/
theorem test_jump_far :
    reaches (cycle { start [] with cc := .greater } 12099999)
      (fun t => decide (t.pc = 100299) && delivers t []) = true := by decide

/-- V72: SVC with AC = 0 ends the run, and its code is lost behind 4. -/
theorem test_svc_behind_a_pending_code :
    reaches (cycle { start [] with slot := { pending := true, code := .ioCompletion } } 13000000) (fun t =>
      !t.running && !t.slot.pending && decide (t.history.head? = some (.delivered .ioCompletion))) = true := by decide

/-- V71. -/
theorem test_svc_continues :
    reaches (cycle { start [] with ac := 5 } 13000000)
      (fun t => decide (t.pc = 301) && delivers t [.systemCall]) = true := by decide

/-- V73. -/
theorem test_hab :
    reaches (cycle (start []) 15000000) (fun t => decide (t.ie = true) && delivers t []) = true := by decide

/-- V74. -/
theorem test_dhab :
    reaches (cycle { start [] with ie := true } 16000000)
      (fun t => decide (t.ie = false) && delivers t []) = true := by decide

/-- V75. -/
theorem test_tti :
    reaches (cycle (start []) 17000005) (fun t => decide (t.timerPeriod = 5) && delivers t []) = true := by decide

/-- E5. -/
theorem test_chmod_from_user_mode :
    reaches (cycle (start []) 18000001)
      (fun t => decide (t.mode = .user) && delivers t [.illegalInstruction]) = true := by decide

/-- V78. -/
theorem test_chmod_to_user_mode :
    reaches (cycle (kernelStart []) 18000000) (fun t => decide (t.mode = .user) && delivers t []) = true := by decide

/-- V97. -/
theorem test_loadrb :
    reaches (cycle { start [] with cc := .less, ac := 7 } 19000000)
      (fun t => decide (t.ac = 300 ∧ t.cc = .less) && delivers t []) = true := by decide

/-- V91. -/
theorem test_strrb :
    reaches (cycle { start [] with ac := 500 } 20000000)
      (fun t => decide (t.rb = 500 ∧ t.ac = 500) && delivers t []) = true := by decide

/-- V93. -/
theorem test_loadrl :
    reaches (cycle (start []) 21000000) (fun t => decide (t.ac = 400) && delivers t []) = true := by decide

/-- V94. -/
theorem test_strrl :
    reaches (cycle { start [] with ac := 2000 } 22000000)
      (fun t => decide (t.rl = 2000) && delivers t []) = true := by decide

/-- V95. -/
theorem test_loadsp :
    reaches (cycle (start []) 23000000) (fun t => decide (t.ac = 99) && delivers t []) = true := by decide

/-- V96. -/
theorem test_strsp :
    reaches (cycle { start [] with ac := -5 } 24000000)
      (fun t => decide (t.sp = -5) && delivers t []) = true := by decide

/-- V103. -/
theorem test_psh_at_guard :
    reaches (cycle { start [] with rx := 399, ac := 7 } 25000000)
      (fun t => decide (t.mem.read 399 = 7 ∧ t.sp = 98) && delivers t []) = true := by decide

/-- V104. -/
theorem test_psh_below_guard :
    reaches (cycle { start [] with rx := 399, sp := 98, ac := 7 } 25000000)
      (fun t => decide (t.mem.read 398 = 0 ∧ t.sp = 98) && delivers t [.stackOverflowOrArithmetic]) = true := by
  decide

/-- V101. -/
theorem test_pop :
    reaches (cycle { start [(399, 7)] with sp := 98 } 26000000)
      (fun t => decide (t.ac = 7 ∧ t.sp = 99) && delivers t []) = true := by decide

/-- E3. -/
theorem test_pop_empty :
    reaches (cycle { start [] with ac := 5 } 26000000)
      (fun t => decide (t.ac = 5 ∧ t.sp = 99) && delivers t [.stackUnderflow]) = true := by decide

/-- V110. -/
theorem test_retrn_is_physical :
    reaches (cycle { start [(399, 9)] with sp := 98 } 14000000)
      (fun t => decide (t.pc = 9 ∧ t.sp = 99) && delivers t []) = true := by decide

/-- V109. -/
theorem test_retrn_empty :
    reaches (cycle (start []) 14000000)
      (fun t => decide (t.pc = 301 ∧ t.sp = 99) && delivers t [.stackUnderflow]) = true := by decide

/-- V121. -/
theorem test_sdmap_ignores_the_mode :
    reaches (cycle (start []) 28100007) (fun t => decide (t.dma.track = 7) && delivers t []) = true := by decide

/-- V122. -/
theorem test_sdmac_unchecked :
    reaches (cycle (start []) 29099999)
      (fun t => decide (t.dma.cylinder = 99999) && delivers t []) = true := by decide

/-- V123. -/
theorem test_sdmas :
    reaches (cycle (start []) 30000042) (fun t => decide (t.dma.sector = 42) && delivers t []) = true := by decide

/-- V124. -/
theorem test_sdmaio_unchecked :
    reaches (cycle (start []) 31000002) (fun t => decide (t.dma.direction = 2) && delivers t []) = true := by decide

/-- V125. -/
theorem test_sdmam_in_user_mode :
    reaches (cycle (start []) 32000005) (fun t => decide (t.dma.address = 5) && delivers t []) = true := by decide

/-- V126. -/
theorem test_sdmaon :
    reaches (cycle (start []) 33000000) (fun t => decide (t.dma.active = true) && delivers t []) = true := by decide

/-! ### Fetch, check point, units, host -/

/-- V10: only MAR changes, nothing executes. -/
theorem test_fetch_at_limit :
    reaches (step { start [] with pc := 400, script := [.unit .cpuCycle] })
      (fun t => decide (t.mar = 400) && decide (t.pc = 400) && decide (t.ir = 0) && !t.running &&
      decide (t.history = [.delivered .invalidAddress])) = true := by decide

/-- V12. -/
theorem test_fetch_in_kernel_mode :
    reaches (cycle { kernelStart [] with pc := 5 } 4100009)
      (fun t => decide (t.ac = 9 ∧ t.pc = 6) && delivers t []) = true := by decide

/-- V5: a negative word. -/
theorem test_negative_word :
    reaches (cycle (start []) (-1))
      (fun t => decide (t.ir = -1) && delivers t [.illegalInstruction]) = true := by decide

/-- V14: a fault behind a pending tick is lost. -/
theorem test_fault_behind_a_tick_is_lost :
    reaches (cycle { start [] with slot := { pending := true, code := .clockTick } } 5100005) (fun t =>
      decide (t.pc = 301) && delivers t [.clockTick]) = true := by decide

/-- A DMA unit about to transfer, with these registers. -/
def busy (track cylinder sector address direction : Nat) (mem : Memory) (disk : Memory) : State :=
  { start mem with
    disk := disk
    dmaPhase := .busy
    dma := { track, cylinder, sector, address, direction, status := .success, active := true } }

/-- V131: sector [1][2][3] is number 1203. -/
theorem test_dma_reads_the_disk :
    reaches (turn (busy 1 2 3 330 0 [] [(1203, 42)]) .dma) (fun t => decide (t.mem = [(330, 42)]) &&
      decide (t.dma.status = .success) && !t.dma.active && decide (t.slot = { pending := true, code := .ioCompletion }) &&
      decide (t.dmaPhase = .idle)) = true := by decide

/-- V137: the longest text in the last sector. -/
theorem test_dma_writes_the_disk :
    reaches (turn (busy 9 9 99 1999 1 [(1999, -99999999)] []) .dma) (fun t =>
      decide (t.disk = [(9999, -99999999)])) = true := by decide

/-- V132: the transfer fails and still raises 4. -/
theorem test_dma_illegal_track :
    reaches (turn (busy 10 2 3 320 1 [(320, 42)] []) .dma) (fun t => decide (t.disk = []) &&
      decide (t.dma.status = .error) && !t.dma.active &&
      decide (t.slot = { pending := true, code := .ioCompletion })) = true := by decide

/-- V151. -/
theorem test_timer_goes_to_sleep :
    reaches (turn { start [] with timerPeriod := 5 } .timer) (fun t => decide (t.timerPhase = .sleeping)) = true := by
  decide

/-- V153: the tick is dropped behind 4. -/
theorem test_timer_fires_behind_a_pending_code :
    reaches (turn { start [] with timerPhase := .sleeping, slot := { pending := true, code := .ioCompletion } } .timer)
      (fun t => decide (t.slot.code = .ioCompletion) && decide (t.timerPhase = .checking)) = true := by decide

/-- V161: from reset, dispatch(300, 400, 5). -/
theorem test_dispatch :
    reaches (step { State.reset with script := [.host (.dispatch 300 400 5)] }) (fun t => decide (t.rb = 300) &&
      decide (t.rl = 400) && decide (t.pc = 305) && decide (t.sp = 99) && t.running &&
      decide (t.cpuPhase = .fetch)) = true := by decide

/-- V163: no dispatch while the timer sleeps. -/
theorem test_dispatch_while_a_unit_goes_on :
    step { State.reset with timerPhase := .sleeping, script := [.host (.dispatch 300 400 0)] } =
      .refused .hostDutyBroken := by rfl

/-- E8, as the host runs it: the first step after reset runs the word. -/
theorem test_first_word_after_reset :
    reaches (step (State.reset.withFetchWord 32 101005)) (fun t => decide (t.ac = 1005) &&
      decide (t.cc = .greater)) = true := by decide

/-! ### The premises of the statements can be met -/

theorem witness_DecodeInvertsEncode :
    (Instr.load (.indexed 99999)).wellFormed = true ∧ (Instr.comp (.illegalMode 9 0)).wellFormed = true ∧
      (Instr.j 0).wellFormed = true := by decide

theorem witness_WordIsSpelledByOneTriple :
    99999999 ≤ 99999999 ∧ composeWord 99 9 99999 = (99999999 : Nat) ∧ composeWord 0 0 0 = (0 : Nat) := by decide

theorem witness_DecodeKeepsEveryUsedField :
    decode ((8999999 : Nat) : Int) = .ok (.comp (.illegalMode 9 99999)) ∧
      decode ((13999999 : Nat) : Int) = .ok .svc ∧ decode ((9900001 : Nat) : Int) = .ok (.jmpe 1) := by decide

theorem witness_WrittenOutWordsDecode :
    (0 ≤ 9 ∧ 0 ≤ 99999) ∧ (9 ≤ 9 ∧ 99999 ≤ 99999) ∧ 3 ≤ 3 := by decide

/-- S0 with AC = -1: the addresses 300 and 399 are valid and 299 and 400 are not (E4). -/
def bounds : State := { start [] with ac := -1 }

theorem witness_ResolveChecksAndReads :
    bounds.Valid (bounds.rb + (99 : Nat)) ∧ ¬ bounds.Valid (bounds.rb + (100 : Nat)) ∧
      bounds.Valid (bounds.rb + bounds.ac + (1 : Nat)) ∧ ¬ bounds.Valid (bounds.rb + bounds.ac + (0 : Nat)) := by
  decide

theorem witness_TargetChecksTheAddress :
    bounds.Valid (bounds.rb + (99 : Nat)) ∧ ¬ bounds.Valid (bounds.rb + (100 : Nat)) ∧
      bounds.Valid (bounds.rb + bounds.ac + (1 : Nat)) ∧ ¬ bounds.Valid (bounds.rb + bounds.ac + (0 : Nat)) := by
  decide

theorem witness_OperandFaultRaisesItsCodeOnly :
    bounds.resolve (.direct 100) = .error .invalidAddress ∧
      bounds.resolve (.illegalMode 3 0) = .error .illegalInstruction ∧
      bounds.target (.immediate 5) = .error .invalidAddress ∧ bounds.target (.indexed 0) = .error .invalidAddress :=
  ⟨rfl, rfl, rfl, rfl⟩

theorem witness_AddSubMulStoreResultsInRange :
    (start []).resolve (.immediate 1) = .ok 1 ∧ (99999998 + 1 : Int) ≤ 99999999 ∧ -99999999 ≤ (-99999998 - 1 : Int) ∧
      (99999999 * 1 : Int) ≤ 99999999 := ⟨rfl, by decide⟩

theorem witness_AddSubMulFaultOutOfRange :
    (start []).resolve (.immediate 1) = .ok 1 ∧ (99999999 : Int) < 99999999 + 1 ∧ (-99999999 - 1 : Int) < -99999999 ∧
      (start [(350, 2)]).resolve (.direct 50) = .ok 2 ∧ (50000000 * 2 : Int) > 99999999 :=
  ⟨rfl, by decide, by decide, rfl, by decide⟩

theorem witness_DivTruncatesTowardZero :
    bounds.resolve (.immediate 0) = .ok 0 ∧ bounds.resolve (.immediate 2) = .ok 2 ∧ -99999999 ≤ bounds.ac ∧
      bounds.ac ≤ 99999999 := ⟨rfl, rfl, by decide⟩

theorem witness_LoadLoadrxCompResults :
    (start []).resolve (.immediate 0) = .ok 0 ∧ (start []).ac = 0 ∧ (start []).resolve (.immediate 1) = .ok 1 ∧
      (start []).ac < 1 ∧ (start [(301, -1)]).resolve (.direct 1) = .ok (-1) ∧ (-1 : Int) < (start [(301, -1)]).ac :=
  ⟨rfl, rfl, rfl, by decide, rfl, by decide⟩

theorem witness_StoreStrrxWriteTheirTarget :
    bounds.target (.direct 99) = .ok 399 ∧ bounds.target (.indexed 1) = .ok 300 ∧ bounds.Canonical :=
  ⟨rfl, rfl, by decide, by decide⟩

theorem witness_SvcRaisesAndMayEndTheRun :
    (start []).ac = 0 ∧ bounds.ac ≠ 0 := by decide

theorem witness_HabAndDhabWriteOnlyTheFlag :
    (0 ≤ 9 ∧ 0 ≤ 99999) ∧ (9 ≤ 9 ∧ 99999 ≤ 99999) := by decide

theorem witness_ChmodSetsTheModeInKernelModeOnly :
    (kernelStart []).mode = .kernel ∧ (start []).mode = .user ∧ 2 ≤ 2 := by decide

/-- What a dispatch leaves that keeps its duties and takes SP out of the Word range (log entry 16). -/
def farStack : State := State.reset.dispatched (-99999999) 2000 100000299

/-- LOADSP from that SP leaves a Word in AC (R44), and SP as it is. -/
theorem test_loadsp_outside_the_word_range :
    farStack.sp = 100001998 ∧
      ∃ v, InWord v ∧ exec .loadsp farStack = .next { farStack with ac := v, draws := 1 } :=
  ⟨rfl, _, freeWord_inWord 0, rfl⟩

theorem witness_RegisterAccessCopiesWithoutCheck :
    -99999999 ≤ (start []).sp ∧ ({ start [] with sp := 99999999 }).sp ≤ 99999999 ∧ 99999999 < farStack.sp ∧
      ({ start [] with sp := -100000000 }).sp < -99999999 ∧ DispatchDuty State.reset (-99999999) 2000 := by
  decide

theorem witness_PshWritesTheFreeSlot :
    (start []).rx ≤ (start []).rb + (start []).sp ∧ (start []).rb + (start []).sp < (start []).rl ∧
      0 ≤ (start []).rb + (start []).sp ∧ (start []).rb + (start []).sp < 2000 ∧ (start []).Canonical :=
  ⟨by decide, by decide, by decide, by decide, by decide, by decide⟩

/-- S0 with one word pushed: the pop reads 399, the last owned address. -/
def pushed : State := { start [(399, 7)] with sp := 98 }

theorem witness_PopAndRetrnReadTheTop :
    pushed.rb + pushed.sp + 1 < pushed.rl ∧ 0 ≤ pushed.rb + pushed.sp + 1 ∧ pushed.rb + pushed.sp + 1 < 2000 := by
  decide

theorem witness_StackBoundsRaiseAndChangeNothing :
    (∃ s : State, s.rb + s.sp < s.rx) ∧ (∃ s : State, s.rl ≤ s.rb + s.sp) ∧
      (∃ s : State, s.rx ≤ s.rb + s.sp ∧ s.rb + s.sp < s.rl ∧ s.rb + s.sp < 0) ∧
      (∃ s : State, s.rx ≤ s.rb + s.sp ∧ s.rb + s.sp < s.rl ∧ 2000 ≤ s.rb + s.sp) ∧
      (∃ s : State, s.rl ≤ s.rb + s.sp + 1) ∧ (∃ s : State, s.rb + s.sp + 1 < s.rl ∧ s.rb + s.sp + 1 < 0) ∧
      ∃ s : State, s.rb + s.sp + 1 < s.rl ∧ 2000 ≤ s.rb + s.sp + 1 :=
  ⟨⟨{ pushed with rx := 399 }, by decide⟩, ⟨{ pushed with sp := 100 }, by decide⟩,
    ⟨{ pushed with rx := -1, sp := -301 }, by decide⟩, ⟨{ pushed with rl := 2100, sp := 1700 }, by decide⟩,
    ⟨start [], by decide⟩, ⟨{ pushed with sp := -302 }, by decide⟩, ⟨{ pushed with rl := 2100, sp := 1699 }, by decide⟩⟩

theorem witness_PushThenPopRestoresAcAndSp :
    (start []).Canonical ∧ (start []).rx ≤ (start []).rb + (start []).sp ∧
      (start []).rb + (start []).sp < (start []).rl ∧ 0 ≤ (start []).rb + (start []).sp ∧
      (start []).rb + (start []).sp < 2000 ∧ (∃ s : State, s.Canonical ∧ s.rb + s.sp < s.rx ∧ s.slot.pending = false) :=
  ⟨⟨by decide, by decide⟩, by decide, by decide, by decide, by decide, { pushed with rx := 399 },
    ⟨by decide, by decide⟩, by decide, rfl⟩

theorem witness_EveryInstructionChangesOnlyItsFields :
    exec .psh (start []) = .next { (start []).memWrite 399 0 with sp := 98 } ∧
      exec (.load (.direct 100)) (start []) = .next ((start []).raise .invalidAddress) := ⟨rfl, rfl⟩

theorem witness_EveryInstructionStoresOnlyAtItsAddress :
    storeOf (.store (.direct 99)) (start []) = some (399, 0) ∧ storeOf .psh { start [] with ac := 7 } = some (399, 7) ∧
      storeOf (.strrx (.immediate 0)) (start []) = none ∧ (start []).Canonical ∧
      exec .psh (start []) = .next { (start []).memWrite 399 0 with sp := 98 } :=
  ⟨rfl, rfl, rfl, ⟨by decide, by decide⟩, rfl⟩

theorem witness_FirstRaiseWinsAndLaterOnesAreDropped :
    (start []).slot.pending = false ∧ ((start []).raise .clockTick).slot.pending = true := by decide

/-- At the check point, with a code pending. -/
def checking (c : InterruptCode) : State :=
  { (start []).raise c with cpuPhase := .check, script := [.unit .cpu] }

theorem witness_CheckPointDeliversAndClears :
    (checking .clockTick).script = [.unit .cpu] ∧ (checking .clockTick).cpuPhase = .check ∧
      (checking .clockTick).slot = { pending := true, code := .clockTick } ∧
      (checking .stackUnderflow).slot = { pending := true, code := .stackUnderflow } ∧
      ({ checking .clockTick with slot := (start []).slot }).slot.pending = false := by decide

theorem witness_FetchReadsTheWordOrRaises :
    ∀ pc ∈ [399, 400], ∀ s, s = { start [] with pc := pc, script := [.unit .cpu] } →
      s.script = .unit .cpu :: [] ∧ s.cpuPhase = .fetch ∧ s.running = true ∧ (s.Valid s.pc ↔ pc = 399) :=
  by
  intro pc hpc s hs
  simp only [List.mem_cons, List.not_mem_nil, or_false] at hpc
  rcases hpc with rfl | rfl <;> subst hs <;> decide

theorem witness_CpuStopsOnceRunningIsClear :
    ({ start [] with running := false, script := [.unit .cpu] }).script = [.unit .cpu] ∧ (start []).cpuPhase = .fetch ∧
      ({ start [] with running := false }).running = false ∧ State.reset.cpuPhase = .stopped := by decide

/-- About to execute the word w. -/
def executing (w : Int) : State := { start [] with ir := w, cpuPhase := .execute, script := [.unit .cpu] }

theorem witness_ExecuteActionRunsTheInstructionInIr :
    (executing 15000000).script = .unit .cpu :: [] ∧ (executing 15000000).cpuPhase = .execute ∧
      decode (executing 15000000).ir = .ok .hab ∧ decode (executing (-1)).ir = .error .negative ∧
      decode (executing 34000000).ir = .error .unrecognizedOpcode ∧
      (∀ s, exec .hab s = .next { s with ie := true }) := ⟨rfl, rfl, rfl, rfl, rfl, fun _ => rfl⟩

theorem witness_StepTakesTheNextTurn :
    (executing 0).script = .unit .cpu :: [] ∧ State.reset.script = [] := ⟨rfl, rfl⟩

/-- About to run the word w in one turn. -/
def ready (w : Int) : State := { start [(300, w)] with script := [.unit .cpuCycle] }

theorem witness_StepRunsTheDecodedInstruction :
    (ready 100005).nextTurn = .unit .cpuCycle ∧ (ready 100005).cpuPhase = .fetch ∧ (ready 100005).running = true ∧
      (ready 100005).Valid (ready 100005).pc ∧
      decode ((ready 100005).mem.read (ready 100005).pc.toNat) = .ok (.add (.immediate 5)) := by decide

theorem witness_CycleTurnIsARunOfCpuActions :
    (ready 100005).script = .unit .cpuCycle :: [] := rfl

theorem witness_RaiseBehindAPendingCodeIsLost :
    ∃ s : State, s.script = .unit .cpuCycle :: [] ∧ s.cpuPhase = .fetch ∧ s.running = true ∧ s.Valid s.pc ∧
      s.slot.pending = true ∧ s.slot.code ∈ [InterruptCode.systemCall, .clockTick, .ioCompletion] ∧
      ¬ (decode (s.mem.read s.pc.toNat) = .ok .svc ∧ s.ac = 0) := ⟨(ready 5100005).raise .clockTick, by decide⟩

/-- A state whose next turn is a unit's, with the given phases. -/
def unitTurn (a : UnitAction) (timer : TimerPhase) (dma : DmaPhase) (running : Bool) : State :=
  { start [] with script := [.unit a], timerPhase := timer, dmaPhase := dma, running := running }

theorem witness_TimerCheckingStepReadsThePeriod :
    ∃ s : State, s.script = .unit .timer :: [] ∧ s.timerPhase = .checking ∧ s.running = true ∧ s.timerPeriod = 0 ∧
      ({ s with timerPeriod := 1 }).timerPeriod ≠ 0 ∧ ({ s with running := false }).running = false :=
  ⟨unitTurn .timer .checking .idle true, by decide⟩

theorem witness_SleepingTimerFiresOrExits :
    (unitTurn .timer .sleeping .idle true).timerPhase = .sleeping ∧
      (unitTurn .timer .sleeping .idle true).script = .unit .timer :: [] ∧
      (unitTurn .timerExit .sleeping .idle false).script = .unit .timerExit :: [] ∧
      (unitTurn .timerExit .sleeping .idle false).running = false ∧
      (unitTurn .timerExit .sleeping .idle true).running = true := by decide

theorem witness_DmaIdleStepStartsAnArmedTransfer :
    (unitTurn .dma .checking .idle true).script = .unit .dma :: [] ∧ (unitTurn .dma .checking .idle true).dmaPhase = .idle ∧
      (unitTurn .dma .checking .idle true).running = true ∧ (unitTurn .dma .checking .idle false).running = false ∧
      (unitTurn .dma .checking .idle true).dma.active = false ∧ (busy 0 0 0 0 0 [] []).dma.active = true := by
  decide

theorem witness_DmaTransferMovesOneWordOrFails :
    ∃ s : State, s.script = .unit .dma :: [] ∧ s.dmaPhase = .busy ∧ s.dma.track < 10 ∧ s.dma.cylinder < 10 ∧
      s.dma.sector < 100 ∧ s.dma.address < 2000 ∧ s.dma.direction = 1 ∧ (busy 9 9 99 1999 0 [] []).dma.direction = 0 ∧
      10 ≤ (busy 10 0 0 0 0 [] []).dma.track ∧ 10 ≤ (busy 0 10 0 0 0 [] []).dma.cylinder ∧
      100 ≤ (busy 0 0 100 0 0 [] []).dma.sector ∧ 2000 ≤ (busy 0 0 0 2000 0 [] []).dma.address ∧
      2 ≤ (busy 0 0 0 0 2 [] []).dma.direction ∧
      9 < 10 ∧ 99 < 100 ∧ sectorNumber 9 9 99 = 9999 ∧ sectorNumber 1 2 3 = 1203 :=
  ⟨{ busy 9 9 99 1999 1 [] [] with script := [.unit .dma] }, by decide⟩

theorem witness_BusyDmaMayAbandonTheTransfer :
    (unitTurn .dmaExit .checking .busy true).script = .unit .dmaExit :: [] ∧
      (unitTurn .dmaExit .checking .busy true).dmaPhase = .busy ∧ (unitTurn .dmaExit .checking .busy true).running = true ∧
      (unitTurn .dmaExit .checking .busy false).running = false := by decide

theorem witness_SectorTextKeepsEveryWord :
    sectorValue 99999999 = 99999999 ∧ sectorValue (-99999999) = -99999999 ∧ sectorValue 0 = 0 := by decide

theorem witness_DmaWriteThenReadReproducesTheWord :
    ∃ s : State, s.Canonical ∧ s.dma.Legal ∧ s.dma.direction = 1 ∧ 1999 < 2000 ∧ InWord (s.mem.read s.dma.address) :=
  ⟨busy 1 2 3 320 1 [(320, 42)] [], ⟨by decide, by decide⟩, by decide⟩

theorem witness_UnitsLeaveTheCpuAlone :
    ∀ a ∈ [UnitAction.timer, .timerExit, .dma, .dmaExit],
      reaches ((busy 1 2 3 320 1 [(320, 42)] []).unitAction a) (fun _ => true) = true := by decide

theorem witness_ResetZeroesTheMachine :
    State.reset = Sys2Proof.core.reset := rfl

theorem witness_LoadWritesItsWordsAndNothingElse :
    ∃ s : State, s.script = .host (.load [1, -99999999] (1998 : Nat)) :: [] ∧ s.Canonical ∧ s.AllStopped ∧
      (∀ w ∈ [1, -99999999], InWord w) ∧ 1998 + [1, -99999999].length ≤ 2000 :=
  ⟨{ State.reset with script := [.host (.load [1, -99999999] (1998 : Nat))] }, rfl, ⟨by decide, by decide⟩, by decide⟩

theorem witness_DispatchStartsTheUnits :
    ∃ s : State, s.script = .host (.dispatch 300 400 0) :: [] ∧ s.AllStopped ∧ InWord 300 ∧ InWord 400 :=
  ⟨{ State.reset with script := [.host (.dispatch 300 400 0)] }, by decide⟩

theorem witness_HostActsOnlyWhileEveryUnitIsStopped :
    (∃ s : State, s.script = .host (.setMode .kernel) :: [] ∧ s.AllStopped) ∧
      (∃ s : State, s.script = .host (.setMode .kernel) :: [] ∧ ¬ s.AllStopped) ∧
      (∃ s : State, s.script = .host (.load [100000000] 300) :: [] ∧ s.AllStopped ∧
        ∃ w ∈ [(100000000 : Int)], w < -99999999 ∨ 99999999 < w) ∧
      (-1 : Int) < 0 ∧ (2000 : Int) < 1999 + [(1 : Int), 2].length ∧
      ∃ s : State, s.script = .host (.dispatch (-100000000) 400 0) :: [] ∧ s.AllStopped ∧ (-100000000 : Int) < -99999999 :=
  ⟨⟨{ State.reset with script := [.host (.setMode .kernel)] }, by decide⟩,
    ⟨{ start [] with script := [.host (.setMode .kernel)] }, by decide⟩,
    ⟨{ State.reset with script := [.host (.load [100000000] 300)] }, by decide⟩, by decide, by decide,
    ⟨{ State.reset with script := [.host (.dispatch (-100000000) 400 0)] }, by decide⟩⟩

/-- The premises of StepKeepsStoresCanonical, StepKeepsWordsInRange, StepKeepsDeviceOperandsInRange,
StepKeepsFatalCodesToTheirCycle and StepKeepsUnitsGoingWhileRunning, in one running state whose step answers a next
state. -/
theorem witness_invariants : (ready 5000050).Canonical ∧ (ready 5000050).WordsOnly ∧ (ready 5000050).OperandsInRange ∧
    (ready 5000050).SlotInvariant ∧ (ready 5000050).UnitsInvariant ∧
    reaches (step (ready 5000050)) (fun _ => true) = true := by
  refine ⟨?_, ?_, ?_, fun h => ?_, ?_, by decide⟩
  · unfold State.Canonical; decide
  · unfold State.WordsOnly; decide
  · unfold State.OperandsInRange; decide
  · cases h
  · unfold State.UnitsInvariant; decide

theorem witness_OnlySvcOrAFatalDeliveryClearsRunning :
    reaches ((checking .stackUnderflow).takeTurn (.unit .cpu)) (fun t => !t.running) = true ∧
      (checking .stackUnderflow).running = true ∧
      reaches ((executing 13000000).takeTurn (.unit .cpu)) (fun t => !t.running) = true := by decide

theorem witness_NothingEntersKernelModeFromUserMode :
    (ready 18000001).mode = .user ∧ (ready 18000001).nextTurn ≠ .host (.setMode .kernel) ∧
      reaches (step (ready 18000001)) (fun _ => true) = true := by decide

theorem witness_UserModeStoresStayInTheirWindow :
    bounds.mode = .user ∧
      reaches (exec (.store (.direct 99)) bounds) (fun t => decide (t.mem.read 399 ≠ bounds.mem.read 399)) = true ∧
      reaches (exec .psh { bounds with rx := 0, sp := -1 }) (fun t => decide (t.mem.read 299 ≠ 0)) = true := by
  decide

theorem witness_UserModeOperandsSeeOnlyTheirWindow :
    (start []).mode = .user ∧ ∀ b : Nat, (start []).rb ≤ b → (b : Int) < (start []).rl →
      Memory.read [(299, 1), (400, 1)] b = (start []).mem.read b :=
  by
  refine ⟨rfl, fun b h1 h2 => ?_⟩
  have h3 : (300 : Int) ≤ b := h1
  have h4 : (b : Int) < 400 := h2
  have e : Memory.read [(299, 1), (400, 1)] b = 0 := by
    simp only [Memory.read]
    rw [if_neg (by omega), if_neg (by omega)]
  exact e

theorem witness_InterruptFlagGatesNothing :
    reaches ((ready 16000000).takeTurn (.unit .cpuCycle)) (fun _ => true) = true := by decide

/-! ### Two fair runs -/

/-- The history of k rounds: a jump to itself, and a tick delivered after it. -/
def rounds : Nat → List Event
  | 0 => []
  | k + 1 => .delivered .clockTick :: .executed 300 27000000 :: rounds k

/-- A program that jumps to itself with the timer armed, at the r-th turn of a round. -/
def ticking (r : Nat) (h : List Event) : State :=
  { start [(300, 27000000)] with
    mar := if h = [] then 0 else 300
    mdr := if h = [] then 0 else 27000000
    ir := if h = [] then 0 else 27000000
    timerPeriod := 1
    timerPhase := if r = 2 then .sleeping else .checking
    slot := { pending := decide (r = 0 ∨ r = 3), code := .clockTick }
    history := h }

/-- The turns of a round. -/
def roundRobin : Nat → UnitAction
  | 0 => .cpuCycle
  | 1 => .timer
  | 2 => .timer
  | _ => .dma

theorem ticking_turn (k : Nat) :
    (ticking 0 (rounds k)).unitAction .cpuCycle = .next (ticking 1 (rounds (k + 1))) ∧
      (ticking 1 (rounds (k + 1))).unitAction .timer = .next (ticking 2 (rounds (k + 1))) ∧
      (ticking 2 (rounds (k + 1))).unitAction .timer = .next (ticking 3 (rounds (k + 1))) ∧
      (ticking 3 (rounds (k + 1))).unitAction .dma = .next (ticking 0 (rounds (k + 1))) :=
  ⟨rfl, rfl, rfl, rfl⟩

theorem witness_ArmedTimerFiresForEver :
    ∃ (schedule : Nat → Turn) (run : Nat → State), IsRun schedule run ∧ WeaklyFair schedule run ∧
      ∀ n, (run n).running = true ∧ (run n).timerPeriod ≠ 0 ∧ (run n).timerPhase ≠ .stopped := by
  refine ⟨fun n => .unit (roundRobin (n % 4)), fun n => ticking (n % 4) (rounds ((n + 3) / 4)), fun n => ?_,
    fun u n _ => ?_, fun n => ⟨rfl, by simp [ticking], ?_⟩⟩
  · obtain ⟨h0, h1, h2, h3⟩ := ticking_turn (n / 4)
    show State.unitAction (ticking (n % 4) (rounds ((n + 3) / 4))) (roundRobin (n % 4)) =
      .next (ticking ((n + 1) % 4) (rounds ((n + 1 + 3) / 4)))
    have hr : n % 4 = 0 ∨ n % 4 = 1 ∨ n % 4 = 2 ∨ n % 4 = 3 := by omega
    rcases hr with h | h | h | h
    · rw [h, show (n + 3) / 4 = n / 4 by omega, show (n + 1) % 4 = 1 by omega,
        show (n + 1 + 3) / 4 = n / 4 + 1 by omega]
      exact h0
    · rw [h, show (n + 3) / 4 = n / 4 + 1 by omega, show (n + 1) % 4 = 2 by omega,
        show (n + 1 + 3) / 4 = n / 4 + 1 by omega]
      exact h1
    · rw [h, show (n + 3) / 4 = n / 4 + 1 by omega, show (n + 1) % 4 = 3 by omega,
        show (n + 1 + 3) / 4 = n / 4 + 1 by omega]
      exact h2
    · rw [h, show (n + 3) / 4 = n / 4 + 1 by omega, show (n + 1) % 4 = 0 by omega,
        show (n + 1 + 3) / 4 = n / 4 + 1 by omega]
      exact h3
  · cases u with
    | cpu => exact ⟨4 * n, by omega, .cpuCycle, by simp [roundRobin], rfl, rfl⟩
    | timer =>
      refine ⟨4 * n + 1, by omega, .timer, ?_, rfl, ?_⟩
      · show Turn.unit (roundRobin ((4 * n + 1) % 4)) = _
        rw [show (4 * n + 1) % 4 = 1 by omega]; rfl
      · show State.allows (ticking ((4 * n + 1) % 4) _) _ = _
        rw [show (4 * n + 1) % 4 = 1 by omega]; rfl
    | dma =>
      refine ⟨4 * n + 3, by omega, .dma, ?_, rfl, rfl⟩
      show Turn.unit (roundRobin ((4 * n + 3) % 4)) = _
      rw [show (4 * n + 3) % 4 = 3 by omega]; rfl
  · simp only [ticking]
    split <;> decide

/-- A run that winds down: the units stop one after another. -/
def windingDown : Nat → State
  | 0 => { start [] with running := false, timerPhase := .sleeping, dmaPhase := .busy }
  | 1 => { start [] with running := false, cpuPhase := .stopped, timerPhase := .sleeping, dmaPhase := .busy }
  | 2 => { start [] with running := false, cpuPhase := .stopped, timerPhase := .stopped, dmaPhase := .busy }
  | _ => { start [] with running := false, cpuPhase := .stopped, timerPhase := .stopped, dmaPhase := .stopped }

theorem witness_FairRunEndsOnceRunningIsClear :
    ∃ (schedule : Nat → Turn) (run : Nat → State), IsRun schedule run ∧ WeaklyFair schedule run ∧
      (run 0).running = false := by
  refine ⟨fun n => match n with
    | 1 => .unit .timerExit
    | 2 => .unit .dmaExit
    | _ => .unit .cpu, windingDown, fun n => ?_, fun u n h => ?_, rfl⟩
  · match n with
    | 0 => rfl
    | 1 => rfl
    | 2 => rfl
    | n + 3 => rfl
  · have := h (n + 3) (by omega)
    cases u <;> exact absurd this (by simp [windingDown, State.enabled])

end Sys2Proof.Tests
end

section
/-! SUPPORT. Composition and decoding of words as each other's inverse (R111, R112). -/

namespace Sys2Proof

/-- The opcode field of a Word has two digits (R110). -/
theorem opcodeDigits_le {w : Nat} (hw : w ≤ 99999999) : opcodeDigits w ≤ 99 := by
  simp only [opcodeDigits]; omega

/-- Composing the digits of a word gives the word back (R111 inverts R112). -/
@[simp] theorem composeWord_digits (w : Nat) :
    composeWord (opcodeDigits w) (modeDigit w) (operandDigits w) = w := by
  simp only [composeWord, opcodeDigits, modeDigit, operandDigits]; omega

/-- Fields in range are the digits of any word they spell. -/
theorem eq_digits_of_composeWord_eq {op m n w : Nat} (hm : m ≤ 9) (hn : n ≤ 99999) (h : composeWord op m n = w) :
    op = opcodeDigits w ∧ m = modeDigit w ∧ n = operandDigits w := by
  simp only [composeWord, opcodeDigits, modeDigit, operandDigits] at *; omega

/-- Settles O2: the digits fit their fields, compose to the word, and any other fields in range are the same ones. -/
theorem wordIsSpelledByOneTriple : Obligations.WordIsSpelledByOneTriple := by
  intro w hw
  obtain ⟨hmode, hoperand⟩ := digits_fit w
  exact ⟨⟨rfl, rfl, rfl⟩, ⟨opcodeDigits_le hw, hmode, hoperand⟩, composeWord_digits w,
    fun _ _ _ _ hm hn h => eq_digits_of_composeWord_eq hm hn h⟩

end Sys2Proof
end

section
/-! SUPPORT. A CPU turn at the check point: nothing pending, a fatal code, a recoverable code (R146). -/

namespace Sys2Proof.Machine

/-- The codes 0, 1, 5, 6, 7 and 8 are fatal (R311). -/
theorem isFatal_of_mem_fatal_codes :
    ∀ c ∈ [InterruptCode.invalidSyscall, .invalidInterrupt, .illegalInstruction, .invalidAddress, .stackUnderflow,
      .stackOverflowOrArithmetic], c.isFatal = true := by
  decide

/-- The codes 2, 3 and 4 are recoverable (R311). -/
theorem not_isFatal_of_mem_recoverable_codes :
    ∀ c ∈ [InterruptCode.systemCall, .clockTick, .ioCompletion], c.isFatal = false := by
  decide

/-- With nothing pending the check point only moves on. -/
theorem checkPoint_of_not_pending {s : State} (h : s.slot.pending = false) :
    s.checkPoint = { s with cpuPhase := .fetch } := by
  rcases checkPoint_cases s with ⟨-, e⟩ | ⟨hp, -⟩
  · exact e
  · simp [h] at hp

/-- A pending code is delivered and its flag cleared; Running survives it only if the code is recoverable. -/
theorem checkPoint_of_pending {s : State} (h : s.slot.pending = true) :
    s.checkPoint =
      { s with
        history := .delivered s.slot.code :: s.history
        running := if s.slot.code.isFatal then false else s.running
        slot := { pending := false, code := s.slot.code }
        cpuPhase := .fetch } := by
  rcases checkPoint_cases s with ⟨hp, -⟩ | ⟨-, e⟩
  · simp [h] at hp
  · exact e

/-- In the check phase the CPU's action is the check point. -/
theorem cpuAction_of_check {s : State} (h : s.cpuPhase = .check) : s.cpuAction = .next s.checkPoint := by
  simp [State.cpuAction, h]

/-- A CPU turn in the check phase is the check point and nothing else. -/
theorem step_of_cpu_turn_at_check {s : State} {rest : List Turn} (hscript : s.script = .unit .cpu :: rest)
    (hphase : s.cpuPhase = .check) : step s = .next { s with script := rest }.checkPoint :=
  calc step s = { s with script := rest }.takeTurn (.unit .cpu) := step_of_script hscript
    _ = { s with script := rest }.cpuAction := rfl
    _ = .next { s with script := rest }.checkPoint := cpuAction_of_check (s := { s with script := rest }) hphase

/-- Settles O28: the step is the check point, and a delivery clears Running exactly on the fatal codes. -/
theorem checkPointDeliversAndClears : Obligations.CheckPointDeliversAndClears := by
  intro s rest hscript hphase
  rw [step_of_cpu_turn_at_check hscript hphase]
  refine ⟨fun hidle => ?_, fun hpending => ⟨fun hfatal => ?_, fun hrecoverable => ?_⟩⟩
  · rw [checkPoint_of_not_pending (s := { s with script := rest }) hidle]
  · rw [checkPoint_of_pending (s := { s with script := rest }) hpending]
    simp [isFatal_of_mem_fatal_codes _ hfatal]
  · rw [checkPoint_of_pending (s := { s with script := rest }) hpending]
    simp [not_isFatal_of_mem_recoverable_codes _ hrecoverable]

end Sys2Proof.Machine
end

section
/-! SUPPORT. A raise on an empty and on an occupied slot (R302). -/

namespace Sys2Proof.Machine

/-- A raise that finds nothing pending records its code. -/
theorem raise_of_not_pending {s : State} (h : s.slot.pending = false) (c : InterruptCode) :
    s.raise c = { s with slot := { pending := true, code := c } } := by
  rcases slot_raise_cases s.slot c with ⟨hp, -⟩ | ⟨-, e⟩
  · simp [h] at hp
  · rw [State.raise, e]

/-- A raise behind a pending code is lost. -/
theorem raise_of_pending {s : State} (h : s.slot.pending = true) (c : InterruptCode) : s.raise c = s := by
  rcases slot_raise_cases s.slot c with ⟨-, e⟩ | ⟨hp, -⟩
  · rw [State.raise, e]
  · simp [h] at hp

/-- Settles O27: a raise is decided by whether the slot it finds is pending. -/
theorem firstRaiseWinsAndLaterOnesAreDropped : Obligations.FirstRaiseWinsAndLaterOnesAreDropped :=
  fun _ c => ⟨fun hidle => raise_of_not_pending hidle c, fun hpending => raise_of_pending hpending c⟩

end Sys2Proof.Machine
end

section
/-! SUPPORT. A timer turn in the Checking phase: Running clear, period 0, an armed period (R331). -/

namespace Sys2Proof.Machine

/-- A timer turn is the timer's action and nothing else. -/
theorem step_of_timer_turn {s : State} {rest : List Turn} (h : s.script = .unit .timer :: rest) :
    step s = .next { s with script := rest }.timerAction := step_of_script h

/-- The Checking step stops the timer, leaves it where it is, or puts it to sleep. -/
theorem timerAction_of_checking {s : State} (h : s.timerPhase = .checking) :
    s.timerAction =
      if s.running = false then { s with timerPhase := .stopped }
      else if s.timerPeriod = 0 then s
      else { s with timerPhase := .sleeping } := by
  simp [State.timerAction, h]

/-- Settles O36: a timer turn in Checking is the Checking step, whose two tests are the premises of the three cases. -/
theorem timerCheckingStepReadsThePeriod : Obligations.TimerCheckingStepReadsThePeriod := by
  intro s rest hscript hphase
  rw [step_of_timer_turn hscript, timerAction_of_checking (s := { s with script := rest }) hphase]
  refine ⟨fun hclear => ?_, fun hrunning hzero => ?_, fun hrunning harmed => ?_⟩
  · rw [if_pos hclear]
  · rw [if_neg (by simp [hrunning]), if_pos hzero]
  · rw [if_neg (by simp [hrunning]), if_neg harmed]

end Sys2Proof.Machine
end

section
/-! SUPPORT. A DMA turn in the Idle phase: Running clear, an armed transfer, nothing to do (R343). -/

namespace Sys2Proof.Machine

/-- A DMA turn is the unit's action and nothing else. -/
theorem step_of_dma_turn {s : State} {rest : List Turn} (h : s.script = .unit .dma :: rest) :
    step s = .next { s with script := rest }.dmaAction := step_of_script h

/-- The Idle step stops the unit, starts the armed transfer, or leaves the unit where it is. -/
theorem dmaAction_of_idle {s : State} (h : s.dmaPhase = .idle) :
    s.dmaAction =
      if s.running = false then { s with dmaPhase := .stopped }
      else if s.dma.active = true then { s with dmaPhase := .busy }
      else s := by
  simp [State.dmaAction, h]

/-- Settles O39: a DMA turn in Idle is the Idle step, whose two tests are the premises of the three cases. -/
theorem dmaIdleStepStartsAnArmedTransfer : Obligations.DmaIdleStepStartsAnArmedTransfer := by
  intro s rest hscript hphase
  rw [step_of_dma_turn hscript, dmaAction_of_idle (s := { s with script := rest }) hphase]
  refine ⟨fun hclear => ?_, fun hrunning harmed => ?_, fun hrunning hdisarmed => ?_⟩
  · rw [if_pos hclear]
  · rw [if_neg (by simp [hrunning]), if_pos harmed]
  · rw [if_neg (by simp [hrunning]), if_neg (by simp [hdisarmed])]

end Sys2Proof.Machine
end

section
/-! SUPPORT. The decoder and the encoder over the whole opcode map (R111 to R120). -/

namespace Sys2Proof

/-- A non-negative integer decodes by its three fields (R112). -/
theorem decode_natCast (w : Nat) :
    decode (w : Int) = instrOf (opcodeDigits w) (modeDigit w) (operandDigits w) := rfl

/-- Every opcode of the map names an instruction (R118). -/
theorem instrOf_below {op : Nat} (h : op < 34) (m n : Nat) : ∃ i, instrOf op m n = .ok i := by
  interval_cases op <;> exact ⟨_, rfl⟩

/-- An opcode names an instruction exactly when it is one of the map's (R114, R118). -/
theorem instrOf_eq_error_iff (op m n : Nat) : instrOf op m n = .error .unrecognizedOpcode ↔ 34 ≤ op := by
  refine ⟨fun h => ?_, instrOf_above op m n⟩
  by_contra hlt
  obtain ⟨i, hi⟩ := instrOf_below (Nat.lt_of_not_le hlt) m n
  rw [hi] at h
  cases h

/-- Neither opcode above nor within the map makes a word negative (R113). -/
theorem instrOf_ne_negative (op m n : Nat) : instrOf op m n ≠ .error .negative := by
  intro h
  rcases Nat.lt_or_ge op 34 with hlt | hge
  · obtain ⟨i, hi⟩ := instrOf_below hlt m n
    rw [hi] at h
    cases h
  · rw [instrOf_above op m n hge] at h
    cases h

/-- An instruction of the map is well formed and spelled by the fields its operand class uses (R117, R118). -/
theorem encode_of_instrOf {op m n : Nat} {i : Instr} (hm : m ≤ 9) (hn : n ≤ 99999) (h : instrOf op m n = .ok i) :
    i.wellFormed = true ∧
      encode i = composeWord op (if op ≤ 8 then m else 0)
        (if op ∈ [13, 14, 15, 16, 19, 20, 21, 22, 23, 24, 25, 26, 33] then 0 else n) := by
  have hop : op < 34 := by
    by_contra hge
    rw [instrOf_above op m n (Nat.le_of_not_lt hge)] at h
    cases h
  interval_cases op <;> cases h <;> simp [Instr.wellFormed, encode, operandOf_wellFormed hm hn, hn]

/-- Settles O1: the fields of the composed word are the instruction's own, and the map gives the instruction back. -/
theorem decodeInvertsEncode : Obligations.DecodeInvertsEncode := by
  intro i h
  cases i with
  | add op | sub op | mul op | div op | load op | store op | loadrx op | strrx op | comp op =>
    obtain ⟨m, n, hm, hn, rfl⟩ := operand_fields h
    simp [encode, decode_composeWord _ m n hm hn, instrOf]
  | jmpe n | jmpne n | jmplt n | jmplgt n | tti n | chmod n | j n | sdmap n | sdmac n | sdmas n | sdmaio n | sdmam n =>
    exact decode_composeWord _ 0 n (by omega) ((fieldWellFormed_iff n).mp h)
  | svc | retrn | hab | dhab | loadrb | strrb | loadrl | strrl | loadsp | strsp | psh | pop | sdmaon =>
    exact decode_composeWord _ 0 0 (by omega) (by omega)

/-- Settles O3: a decoded word's fields fit, so its instruction is the map's, spelled by the fields it uses. -/
theorem decodeKeepsEveryUsedField : Obligations.DecodeKeepsEveryUsedField := by
  intro w i h
  obtain ⟨hm, hn⟩ := digits_fit w
  rw [decode_natCast] at h
  exact encode_of_instrOf hm hn h

/-- Settles O4: a negative word is one by its sign, and another one is refused exactly for an opcode above 33. -/
theorem illegalWordsAreNegativeOrAboveOpcode33 : Obligations.IllegalWordsAreNegativeOrAboveOpcode33 := by
  intro w
  cases w with
  | ofNat k =>
    rw [Int.ofNat_eq_natCast, decode_natCast, instrOf_eq_error_iff]
    have hne := instrOf_ne_negative (opcodeDigits k) (modeDigit k) (operandDigits k)
    simp only [opcodeDigits] at hne ⊢
    exact ⟨iff_of_false (by omega) hne, by omega⟩
  | negSucc k =>
    exact ⟨iff_of_true (Int.negSucc_lt_zero k) rfl, iff_of_false (by omega) (by simp [decode])⟩

/-- Settles O5: each row is the map's at its opcode; the written-out words are evaluated. -/
theorem writtenOutWordsDecode : Obligations.WrittenOutWordsDecode := by
  refine ⟨fun m n hm hn => ?_, fun m n => ⟨rfl, rfl, rfl, fun h => ?_⟩, by decide⟩
  · and_intros <;> exact decode_composeWord _ m n hm hn
  · obtain ⟨k, rfl⟩ := Nat.exists_eq_add_of_le' h
    rfl

end Sys2Proof
end

section
/-! SUPPORT. What each instruction's rule answers: operands, arithmetic, compare, data movement, jumps, system and
register access (R74, R76, R160 to R245). -/

namespace Sys2Proof.Machine

/-- Settles O6: each operand form is one read of a checked address, or none. -/
theorem resolveChecksAndReads : Obligations.ResolveChecksAndReads := fun s _ _ =>
  ⟨valid_iff s, rfl, rfl, readChecked_valid, readChecked_invalid, readChecked_valid, readChecked_invalid⟩

/-- Settles O7: each operand form is one checked address, or none. -/
theorem targetChecksTheAddress : Obligations.TargetChecksTheAddress := fun _ _ _ =>
  ⟨rfl, rfl, checked_valid, checked_invalid, checked_valid, checked_invalid⟩

/-- Settles O8: every class V rule runs behind Resolve and every class S rule behind Target. -/
theorem operandFaultRaisesItsCodeOnly : Obligations.OperandFaultRaisesItsCodeOnly := by
  refine fun s op c => ⟨fun h i hi => ?_, fun h i hi => ?_⟩
  · simp only [List.mem_cons, List.not_mem_nil, or_false] at hi
    rcases hi with rfl | rfl | rfl | rfl | rfl | rfl | rfl <;> exact withValue_error h _
  · simp only [List.mem_cons, List.not_mem_nil, or_false] at hi
    rcases hi with rfl | rfl <;> exact withTarget_error h _

/-- ADD commits the sum (R161). -/
theorem exec_add_of_resolve {s : State} {op : Operand} {v : Int} (h : s.resolve op = .ok v) :
    exec (.add op) s = .next (s.arithCommit (s.ac + v)) := withValue_ok h _

/-- SUB commits the difference (R162). -/
theorem exec_sub_of_resolve {s : State} {op : Operand} {v : Int} (h : s.resolve op = .ok v) :
    exec (.sub op) s = .next (s.arithCommit (s.ac - v)) := withValue_ok h _

/-- MUL commits the product (R164). -/
theorem exec_mul_of_resolve {s : State} {op : Operand} {v : Int} (h : s.resolve op = .ok v) :
    exec (.mul op) s = .next (s.arithCommit (s.ac * v)) := withValue_ok h _

/-- DIV commits the truncated quotient, or faults on a divisor of 0 (R165). -/
theorem exec_div_of_resolve {s : State} {op : Operand} {v : Int} (h : s.resolve op = .ok v) :
    exec (.div op) s =
      .next (if v = 0 then s.arithFault .stackOverflowOrArithmetic else s.arithCommit (Int.tdiv s.ac v)) := by
  refine (withValue_ok h _).trans ?_
  split
  · rfl
  · rw [tdiv_eq _ _ ‹_›]

/-- A truncated quotient of a Word is a Word. -/
theorem inWord_tdiv {a b : Int} (ha : InWord a) : InWord (Int.tdiv a b) := by
  have hle : (Int.tdiv a b).natAbs ≤ a.natAbs := Int.natAbs_tdiv_le_natAbs a b
  rw [inWord_iff] at *
  omega

/-- Settles O9: the result check stores a Word with its sign. -/
theorem addSubMulStoreResultsInRange : Obligations.AddSubMulStoreResultsInRange := by
  intro s op v h
  rw [exec_add_of_resolve h, exec_sub_of_resolve h, exec_mul_of_resolve h]
  exact ⟨fun hlow hhigh => congrArg _ (arithCommit_inWord ⟨hlow, hhigh⟩ s),
    fun hlow hhigh => congrArg _ (arithCommit_inWord ⟨hlow, hhigh⟩ s),
    fun hlow hhigh => congrArg _ (arithCommit_inWord ⟨hlow, hhigh⟩ s)⟩

/-- Settles O10: all three commit their result, and the result check faults out of range. -/
theorem addSubMulFaultOutOfRange : Obligations.AddSubMulFaultOutOfRange := by
  intro s op v h r i hi
  have hcommit : exec i s = .next (s.arithCommit r) := by
    rcases hi with ⟨rfl, rfl⟩ | ⟨rfl, rfl⟩ | ⟨rfl, rfl⟩
    exacts [exec_add_of_resolve h, exec_sub_of_resolve h, exec_mul_of_resolve h]
  rw [hcommit]
  exact ⟨fun habove => congrArg _ (arithCommit_above habove s), fun hbelow => congrArg _ (arithCommit_below hbelow s)⟩

/-- Settles O11: a zero divisor faults, and any other quotient of a Word is a Word. -/
theorem divTruncatesTowardZero : Obligations.DivTruncatesTowardZero := by
  intro s op v h
  rw [exec_div_of_resolve h]
  refine ⟨fun hzero => ?_, fun hne hlow hhigh => ?_⟩
  · rw [if_pos hzero]
    rfl
  · rw [if_neg hne]
    exact congrArg _ (arithCommit_inWord (inWord_tdiv ⟨hlow, hhigh⟩) s)

/-- Settles O12: each rule runs on the operand it has, and COMP's code is decided by the order of the two values. -/
theorem loadLoadrxCompResults : Obligations.LoadLoadrxCompResults := by
  intro s op v h
  have hcomp : exec (.comp op) s = .next { s with cc := compareCode s.ac v } := withValue_ok h _
  refine ⟨withValue_ok h _, withValue_ok h _, fun heq => ?_, fun hlt => ?_, fun hgt => ?_⟩ <;> rw [hcomp, compareCode]
  · rw [if_pos heq]
  · rw [if_neg (by omega), if_pos hlt]
  · rw [if_neg (by omega), if_neg (by omega)]

/-- In a canonical memory a write is read back at its address, and every other address reads as before. -/
theorem read_write_frame (s : State) (a : Nat) (v : Int) :
    (s.Canonical → (s.mem.write a v).read a = v) ∧ ∀ b : Nat, b ≠ a → (s.mem.write a v).read b = s.mem.read b :=
  ⟨fun ⟨⟨hrising, _⟩, _⟩ => Memory.read_write_same s.mem a v hrising,
    fun b hb => Memory.read_write_other s.mem a b v hb⟩

/-- Settles O13: both rules are one write at the target. -/
theorem storeStrrxWriteTheirTarget : Obligations.StoreStrrxWriteTheirTarget := by
  intro s op a h i v hi
  refine ⟨s.mem.write a.toNat v, ?_, read_write_frame s a.toNat v⟩
  rcases hi with ⟨rfl, rfl⟩ | ⟨rfl, rfl⟩ <;> exact withTarget_ok h _

/-- A conditional jump moves PC and nothing else. -/
theorem jumpIf_eq (s : State) (taken : Bool) (n : Nat) :
    s.jumpIf taken n = { s with pc := if taken = true then s.rb + n else s.pc } := by
  cases taken <;> rfl

/-- Settles O14: each jump is taken by its test of the condition code, one case per code. -/
theorem jumpsFollowTheConditionCode : Obligations.JumpsFollowTheConditionCode := by
  intro s n
  simp only [exec, execJmpe, execJmpne, execJmplt, execJmplgt, execJ, State.jumpTo, jumpIf_eq]
  cases s.cc <;> simp

/-- Settles O15: the raise apart, SVC's one test is of AC. -/
theorem svcRaisesAndMayEndTheRun : Obligations.SvcRaisesAndMayEndTheRun := by
  refine fun s => ⟨fun hzero => ?_, fun hne => ?_⟩ <;> simp only [exec, execSvc, State.raise]
  · rw [if_pos hzero]
  · rw [if_neg hne]

/-- Settles O16: the map's rows 15 and 16, and neither raise nor check point reads the flag. -/
theorem habAndDhabWriteOnlyTheFlag : Obligations.HabAndDhabWriteOnlyTheFlag := by
  refine ⟨fun m n hm hn => ⟨decode_composeWord 15 m n hm hn, decode_composeWord 16 m n hm hn⟩,
    fun _ => ⟨rfl, rfl⟩, fun s b c => ⟨rfl, ?_⟩⟩
  rcases checkPoint_cases s with ⟨hidle, e⟩ | ⟨hpending, e⟩ <;> rw [e]
  · exact checkPoint_of_not_pending (s := { s with ie := b }) hidle
  · exact checkPoint_of_pending (s := { s with ie := b }) hpending

/-- Settles O17: each rule is one field's update. -/
theorem deviceRegistersTakeTheRawOperand : Obligations.DeviceRegistersTakeTheRawOperand := fun _ _ =>
  ⟨rfl, rfl, rfl, rfl, rfl, rfl, rfl⟩

/-- In user mode CHMOD raises 5 (R226). -/
theorem exec_chmod_of_user {s : State} (h : s.mode = .user) (n : Nat) :
    exec (.chmod n) s = .next (s.raise .illegalInstruction) := by
  simp [exec, execChmod, h]

/-- An operand above 1 names no mode, so CHMOD raises 5 (R226). -/
theorem exec_chmod_of_two_le {n : Nat} (h : 2 ≤ n) (s : State) :
    exec (.chmod n) s = .next (s.raise .illegalInstruction) := by
  obtain ⟨k, rfl⟩ := Nat.exists_eq_add_of_le' h
  cases hmode : s.mode <;> simp [exec, execChmod, hmode]

/-- In kernel mode CHMOD 0 enters user mode (R226). -/
theorem exec_chmod_zero_of_kernel {s : State} (h : s.mode = .kernel) :
    exec (.chmod 0) s = .next { s with mode := .user } := by
  simp [exec, execChmod, h]

/-- In kernel mode CHMOD 1 leaves the state as it is (R226). -/
theorem exec_chmod_one_of_kernel {s : State} (h : s.mode = .kernel) : exec (.chmod 1) s = .next s := by
  have hsame : { s with mode := .kernel } = s := by rw [← h]
  simp [exec, execChmod, h, hsame]

/-- Settles O18: the mode and the operand decide between the four cases of the rule. -/
theorem chmodSetsTheModeInKernelModeOnly : Obligations.ChmodSetsTheModeInKernelModeOnly := by
  refine fun s n => ⟨fun hkernel => ⟨exec_chmod_zero_of_kernel hkernel, exec_chmod_one_of_kernel hkernel⟩, ?_⟩
  rintro (huser | hn)
  exacts [exec_chmod_of_user huser n, exec_chmod_of_two_le hn s]

/-- Settles O19: five copies, and LOADSP by whether SP is a Word. -/
theorem registerAccessCopiesWithoutCheck : Obligations.RegisterAccessCopiesWithoutCheck := by
  refine fun s => ⟨rfl, rfl, rfl, rfl, fun hlow hhigh => if_pos ⟨hlow, hhigh⟩, fun houtside => ?_, rfl⟩
  refine ⟨Config.freeWord s.draws, freeWord_inWord s.draws, if_neg ?_⟩
  rw [inWord_iff]
  omega

end Sys2Proof.Machine
end

section
/-! SUPPORT. The stack instructions: success, bounds, and the round trip (R260 to R264, R318). -/

namespace Sys2Proof.Machine

/-- A push with a slot writes AC there and decrements SP (R260). -/
theorem exec_psh_of_ok {s : State} {a : Int} (h : s.pushSlot = .ok a) :
    exec .psh s = .next { s with mem := s.mem.write a.toNat s.ac, sp := s.sp - 1 } := by
  simp [exec, execPsh, h, State.memWrite]

/-- A push without a slot raises (R260). -/
theorem exec_psh_of_error {s : State} {c : InterruptCode} (h : s.pushSlot = .error c) :
    exec .psh s = .next (s.raise c) := by
  simp [exec, execPsh, h]

/-- A pop with a slot reads it into AC and increments SP (R261). -/
theorem exec_pop_of_ok {s : State} {a : Int} (h : s.popSlot = .ok a) :
    exec .pop s = .next { s with ac := s.mem.read a.toNat, sp := s.sp + 1 } := by
  simp [exec, execPop, h, State.memRead]

/-- A pop without a slot raises (R261). -/
theorem exec_pop_of_error {s : State} {c : InterruptCode} (h : s.popSlot = .error c) :
    exec .pop s = .next (s.raise c) := by
  simp [exec, execPop, h]

/-- A return with a slot reads it into PC and increments SP (R264). -/
theorem exec_retrn_of_ok {s : State} {a : Int} (h : s.popSlot = .ok a) :
    exec .retrn s = .next { s with pc := s.mem.read a.toNat, sp := s.sp + 1 } := by
  simp [exec, execRetrn, h, State.memRead]

/-- A return without a slot raises (R264). -/
theorem exec_retrn_of_error {s : State} {c : InterruptCode} (h : s.popSlot = .error c) :
    exec .retrn s = .next (s.raise c) := by
  simp [exec, execRetrn, h]

/-- Settles O20: inside its bounds a push is one write. -/
theorem pshWritesTheFreeSlot : Obligations.PshWritesTheFreeSlot := fun s hguard hlimit hlow hhigh =>
  ⟨_, exec_psh_of_ok (pushSlot_of_bounds hguard hlimit hlow hhigh), read_write_frame s _ _⟩

/-- Settles O21: inside their bounds both read the slot above SP. -/
theorem popAndRetrnReadTheTop : Obligations.PopAndRetrnReadTheTop := fun _ hlimit hlow hhigh =>
  have hslot := popSlot_of_bounds hlimit hlow hhigh
  ⟨exec_pop_of_ok hslot, exec_retrn_of_ok hslot⟩

/-- Settles O22: the slot checks give the code, and without a slot each instruction only raises it. -/
theorem stackBoundsRaiseAndChangeNothing : Obligations.StackBoundsRaiseAndChangeNothing := by
  refine fun s => ⟨fun h => exec_psh_of_error (pushSlot_overflow h),
    fun hguard hlimit houtside => exec_psh_of_error (pushSlot_outside hguard hlimit houtside), fun i hi => ?_⟩
  have hraise : ∀ c, s.popSlot = .error c → exec i s = .next (s.raise c) := by
    intro c hc
    simp only [List.mem_cons, List.not_mem_nil, or_false] at hi
    rcases hi with rfl | rfl
    exacts [exec_pop_of_error hc, exec_retrn_of_error hc]
  exact ⟨fun h => hraise _ (popSlot_underflow h), fun hlimit houtside => hraise _ (popSlot_outside hlimit houtside)⟩

/-- What a push leaves when its slot is in bounds (R260). -/
def State.pushed (s : State) : State := { s with mem := s.mem.write (s.rb + s.sp).toNat s.ac, sp := s.sp - 1 }

/-- The slot a pop reads after a push is the one the push wrote. -/
theorem popSlot_pushed {s : State} (hlimit : s.rb + s.sp < s.rl) (hlow : 0 ≤ s.rb + s.sp)
    (hhigh : s.rb + s.sp < 2000) : s.pushed.popSlot = .ok (s.rb + s.sp) := by
  have htop : s.pushed.rb + s.pushed.sp + 1 = s.rb + s.sp := by simp only [State.pushed]; omega
  rw [← htop] at hlimit hlow hhigh ⊢
  exact popSlot_of_bounds hlimit hlow hhigh

/-- Settles O23: a pop reads the slot just pushed, and the guard's raise leaves all but the interrupt slot. -/
theorem pushThenPopRestoresAcAndSp : Obligations.PushThenPopRestoresAcAndSp := by
  refine fun s hcanonical => ⟨fun hguard hlimit hlow hhigh => ?_, fun hguard => ?_⟩
  · have hback : s.pushed.mem.read (s.rb + s.sp).toNat = s.ac := (read_write_frame s _ _).1 hcanonical
    refine ⟨s.pushed, _, exec_psh_of_ok (pushSlot_of_bounds hguard hlimit hlow hhigh),
      exec_pop_of_ok (popSlot_pushed hlimit hlow hhigh), ?_, hback⟩
    rw [hback]
    simp [State.pushed]
  · exact ⟨_, exec_psh_of_error (pushSlot_overflow (.inl hguard)), rfl, rfl, fun hidle =>
      congrArg State.slot (raise_of_not_pending hidle .stackOverflowOrArithmetic)⟩

end Sys2Proof.Machine
end

section
/-! SUPPORT. Every instruction: it answers a next state, and the frame of what it leaves unchanged (R143, R300). -/

namespace Sys2Proof.Machine

/-- A class V rule answers a next state. -/
theorem withValue_next (s : State) (op : Operand) (rule : Int → State) : ∃ t, s.withValue op rule = .next t := by
  cases h : s.resolve op with
  | ok v => exact ⟨_, withValue_ok h rule⟩
  | error c => exact ⟨_, withValue_error h rule⟩

/-- A class S rule answers a next state. -/
theorem withTarget_next (s : State) (op : Operand) (rule : Int → State) : ∃ t, s.withTarget op rule = .next t := by
  cases h : s.target op with
  | ok a => exact ⟨_, withTarget_ok h rule⟩
  | error c => exact ⟨_, withTarget_error h rule⟩

/-- PSH wrote AC to its slot, or the slot's code was raised and nothing else happened. -/
theorem exec_psh_cases (s : State) :
    (∃ a, s.pushSlot = .ok a ∧
        exec .psh s = .next { s with mem := s.mem.write a.toNat s.ac, sp := s.sp - 1 }) ∨
      ∃ c, s.pushSlot = .error c ∧ exec .psh s = .next (s.raise c) := by
  cases h : s.pushSlot with
  | ok a => exact .inl ⟨a, rfl, exec_psh_of_ok h⟩
  | error c => exact .inr ⟨c, rfl, exec_psh_of_error h⟩

/-- POP read its slot into AC, or the slot's code was raised and nothing else happened. -/
theorem exec_pop_cases (s : State) :
    (∃ a, s.popSlot = .ok a ∧ exec .pop s = .next { s with ac := s.mem.read a.toNat, sp := s.sp + 1 }) ∨
      ∃ c, s.popSlot = .error c ∧ exec .pop s = .next (s.raise c) := by
  cases h : s.popSlot with
  | ok a => exact .inl ⟨a, rfl, exec_pop_of_ok h⟩
  | error c => exact .inr ⟨c, rfl, exec_pop_of_error h⟩

/-- RETRN read its slot into PC, or the slot's code was raised and nothing else happened. -/
theorem exec_retrn_cases (s : State) :
    (∃ a, s.popSlot = .ok a ∧ exec .retrn s = .next { s with pc := s.mem.read a.toNat, sp := s.sp + 1 }) ∨
      ∃ c, s.popSlot = .error c ∧ exec .retrn s = .next (s.raise c) := by
  cases h : s.popSlot with
  | ok a => exact .inl ⟨a, rfl, exec_retrn_of_ok h⟩
  | error c => exact .inr ⟨c, rfl, exec_retrn_of_error h⟩

/-- CHMOD raises 5, or, in kernel mode, sets the mode (R226). -/
theorem exec_chmod_cases (n : Nat) (s : State) :
    exec (.chmod n) s = .next (s.raise .illegalInstruction) ∨
      (s.mode = .kernel ∧ ∃ m, exec (.chmod n) s = .next { s with mode := m }) := by
  cases hmode : s.mode with
  | user => exact .inl (exec_chmod_of_user hmode n)
  | kernel =>
    match n with
    | 0 => exact .inr ⟨rfl, .user, exec_chmod_zero_of_kernel hmode⟩
    | 1 => exact .inr ⟨rfl, s.mode, exec_chmod_one_of_kernel hmode⟩
    | k + 2 => exact .inl (exec_chmod_of_two_le (by omega) s)

/-- Settles O24: each kind of rule answers a next state. -/
theorem everyInstructionAnswersANextState : Obligations.EveryInstructionAnswersANextState := by
  intro i s
  cases i with
  | add op | sub op | mul op | div op | load op | loadrx op | comp op => exact withValue_next s op _
  | store op | strrx op => exact withTarget_next s op _
  | psh => rcases exec_psh_cases s with ⟨_, -, e⟩ | ⟨_, -, e⟩ <;> exact ⟨_, e⟩
  | pop => rcases exec_pop_cases s with ⟨_, -, e⟩ | ⟨_, -, e⟩ <;> exact ⟨_, e⟩
  | retrn => rcases exec_retrn_cases s with ⟨_, -, e⟩ | ⟨_, -, e⟩ <;> exact ⟨_, e⟩
  | chmod n => rcases exec_chmod_cases n s with e | ⟨-, _, e⟩ <;> exact ⟨_, e⟩
  | loadsp => rcases execLoadsp_cases s with ⟨-, e⟩ | ⟨-, e⟩ <;> exact ⟨_, e⟩
  | jmpe n | jmpne n | jmplt n | jmplgt n | j n | tti n | sdmap n | sdmac n | sdmas n | sdmaio n | sdmam n =>
    exact ⟨_, rfl⟩
  | svc | hab | dhab | loadrb | strrb | loadrl | strrl | strsp | sdmaon => exact ⟨_, rfl⟩

/-- A code that some rule raises: all but 0 and 1 (R303). -/
def Raisable (c : InterruptCode) : Prop := c ≠ .invalidSyscall ∧ c ≠ .invalidInterrupt

/-- The codes of the instructions and of the units are raisable. -/
theorem raisable_of_mem {c : InterruptCode} (h : c ∈ [InterruptCode.systemCall, .clockTick, .ioCompletion,
    .illegalInstruction, .invalidAddress, .stackUnderflow, .stackOverflowOrArithmetic]) : Raisable c := by
  constructor <;> rintro rfl <;> exact absurd h (by decide)

/-- An operand's code is raisable. -/
theorem raisable_of_resolve_error {s : State} {op : Operand} {c : InterruptCode} (h : s.resolve op = .error c) :
    Raisable c := by
  rcases resolve_error h with rfl | rfl <;> exact raisable_of_mem (by decide)

/-- A target's code is raisable. -/
theorem raisable_of_target_error {s : State} {op : Operand} {c : InterruptCode} (h : s.target op = .error c) :
    Raisable c := by
  rcases target_error h with rfl | rfl <;> exact raisable_of_mem (by decide)

/-- A push's code is raisable. -/
theorem raisable_of_pushSlot_error {s : State} {c : InterruptCode} (h : s.pushSlot = .error c) : Raisable c := by
  rcases pushSlot_error h with rfl | rfl <;> exact raisable_of_mem (by decide)

/-- A pop's code is raisable. -/
theorem raisable_of_popSlot_error {s : State} {c : InterruptCode} (h : s.popSlot = .error c) : Raisable c := by
  rcases popSlot_error h with rfl | rfl <;> exact raisable_of_mem (by decide)

/-- What an arithmetic instruction can leave: a Word and its sign, an arithmetic fault, or an operand's code (R160). -/
def ArithOutcome (s t : State) : Prop :=
  (∃ r, InWord r ∧ t = { s with ac := r, cc := signCode r }) ∨
    (∃ c, Raisable c ∧ t = s.arithFault c) ∨ ∃ c, Raisable c ∧ t = s.raise c

/-- The result check leaves one of the arithmetic outcomes. -/
theorem arithOutcome_arithCommit (s : State) (r : Int) : ArithOutcome s (s.arithCommit r) := by
  rcases arithCommit_cases s r with ⟨hr, e⟩ | ⟨-, e⟩ | ⟨-, e⟩
  · exact .inl ⟨r, hr, e⟩
  · exact .inr (.inl ⟨_, raisable_of_mem (by decide), e⟩)
  · exact .inr (.inl ⟨_, raisable_of_mem (by decide), e⟩)

/-- A class V rule whose values lead to arithmetic outcomes has one itself. -/
theorem arithOutcome_withValue {s t : State} {op : Operand} {rule : Int → State}
    (hrule : ∀ v, ArithOutcome s (rule v)) (h : s.withValue op rule = .next t) : ArithOutcome s t := by
  rcases withValue_cases h with ⟨v, -, rfl⟩ | ⟨c, hc, rfl⟩
  · exact hrule v
  · exact .inr (.inr ⟨c, raisable_of_resolve_error hc, rfl⟩)

/-- ADD, SUB, MUL and DIV have arithmetic outcomes. -/
theorem exec_arith_cases {i : Instr} {op : Operand} {s t : State}
    (hi : i = .add op ∨ i = .sub op ∨ i = .mul op ∨ i = .div op) (h : exec i s = .next t) : ArithOutcome s t := by
  rcases hi with rfl | rfl | rfl | rfl
  · exact arithOutcome_withValue (fun v => arithOutcome_arithCommit s _) h
  · exact arithOutcome_withValue (fun v => arithOutcome_arithCommit s _) h
  · exact arithOutcome_withValue (fun v => arithOutcome_arithCommit s _) h
  · refine arithOutcome_withValue (fun v => ?_) h
    split
    · exact .inr (.inl ⟨_, raisable_of_mem (by decide), rfl⟩)
    · exact arithOutcome_arithCommit s _

/-- An arithmetic outcome differs in AC, cc and the slot alone. -/
theorem ArithOutcome.frame {s t : State} (h : ArithOutcome s t) :
    t = { s with ac := t.ac, cc := t.cc, slot := t.slot } := by
  rcases h with ⟨r, -, rfl⟩ | ⟨c, -, rfl⟩ | ⟨c, -, rfl⟩ <;> rfl

/-- A conditional jump answers a change of PC alone. -/
theorem frame_of_jumpIf {s t : State} {taken : Bool} {n : Nat}
    (h : (.next (s.jumpIf taken n) : StepResult) = .next t) : t = { s with pc := t.pc } := by
  cases h
  rw [jumpIf_eq]

/-- Each instruction changes only the fields its rule names (R35, R56, R161 to R286). -/
theorem exec_changesOnly {i : Instr} {s t : State} (h : exec i s = .next t) : ChangesOnly i s t := by
  cases i with
  | add op => exact (exec_arith_cases (op := op) (by simp) h).frame
  | sub op => exact (exec_arith_cases (op := op) (by simp) h).frame
  | mul op => exact (exec_arith_cases (op := op) (by simp) h).frame
  | div op => exact (exec_arith_cases (op := op) (by simp) h).frame
  | load op | loadrx op | comp op => rcases withValue_cases h with ⟨v, -, rfl⟩ | ⟨c, -, rfl⟩ <;> rfl
  | store op | strrx op => rcases withTarget_cases h with ⟨a, -, rfl⟩ | ⟨c, -, rfl⟩ <;> rfl
  | jmpe n | jmpne n | jmplt n | jmplgt n => exact frame_of_jumpIf h
  | psh => rcases exec_psh_cases s with ⟨_, -, e⟩ | ⟨_, -, e⟩ <;> rw [e] at h <;> cases h <;> rfl
  | pop => rcases exec_pop_cases s with ⟨_, -, e⟩ | ⟨_, -, e⟩ <;> rw [e] at h <;> cases h <;> rfl
  | retrn => rcases exec_retrn_cases s with ⟨_, -, e⟩ | ⟨_, -, e⟩ <;> rw [e] at h <;> cases h <;> rfl
  | chmod n => rcases exec_chmod_cases n s with e | ⟨-, _, e⟩ <;> rw [e] at h <;> cases h <;> rfl
  | loadsp => rcases execLoadsp_cases s with ⟨-, e⟩ | ⟨-, e⟩ <;> cases e.symm.trans h <;> rfl
  | j n | tti n | sdmap n | sdmac n | sdmas n | sdmaio n | sdmam n => cases h; rfl
  | svc | hab | dhab | loadrb | strrb | loadrl | strrl | strsp | sdmaon => cases h; rfl

/-- Settles O25: each rule's outcomes differ from the state before in the fields named. -/
theorem everyInstructionChangesOnlyItsFields : Obligations.EveryInstructionChangesOnlyItsFields :=
  fun _ _ _ h => exec_changesOnly h

/-- The fields that no instruction changes (R45, R54, R56, R145). -/
structure ExecFrame (s t : State) : Prop where
  mar : t.mar = s.mar
  mdr : t.mdr = s.mdr
  ir : t.ir = s.ir
  disk : t.disk = s.disk
  cpuPhase : t.cpuPhase = s.cpuPhase
  timerPhase : t.timerPhase = s.timerPhase
  dmaPhase : t.dmaPhase = s.dmaPhase
  history : t.history = s.history

/-- No instruction changes MAR, MDR, IR, the disk, a phase or the history. -/
theorem exec_frame {i : Instr} {s t : State} (h : exec i s = .next t) : ExecFrame s t := by
  cases i <;> (rw [show t = _ from exec_changesOnly h]; exact ⟨rfl, rfl, rfl, rfl, rfl, rfl, rfl, rfl⟩)

/-- An instruction leaves the slot alone or raises a code other than 0 and 1 (R302, R303). -/
theorem exec_slot {i : Instr} {s t : State} (h : exec i s = .next t) :
    t.slot = s.slot ∨ ∃ c, Raisable c ∧ t.slot = s.slot.raise c := by
  cases i with
  | add op | sub op | mul op | div op =>
    rcases exec_arith_cases (op := op) (by simp) h with ⟨_, -, rfl⟩ | ⟨c, hc, rfl⟩ | ⟨c, hc, rfl⟩
    exacts [.inl rfl, .inr ⟨c, hc, rfl⟩, .inr ⟨c, hc, rfl⟩]
  | load op | loadrx op | comp op =>
    rcases withValue_cases h with ⟨v, -, rfl⟩ | ⟨c, hc, rfl⟩
    exacts [.inl rfl, .inr ⟨c, raisable_of_resolve_error hc, rfl⟩]
  | store op | strrx op =>
    rcases withTarget_cases h with ⟨a, -, rfl⟩ | ⟨c, hc, rfl⟩
    exacts [.inl rfl, .inr ⟨c, raisable_of_target_error hc, rfl⟩]
  | psh =>
    rcases exec_psh_cases s with ⟨_, -, e⟩ | ⟨c, hc, e⟩ <;> rw [e] at h <;> cases h
    exacts [.inl rfl, .inr ⟨c, raisable_of_pushSlot_error hc, rfl⟩]
  | pop =>
    rcases exec_pop_cases s with ⟨_, -, e⟩ | ⟨c, hc, e⟩ <;> rw [e] at h <;> cases h
    exacts [.inl rfl, .inr ⟨c, raisable_of_popSlot_error hc, rfl⟩]
  | retrn =>
    rcases exec_retrn_cases s with ⟨_, -, e⟩ | ⟨c, hc, e⟩ <;> rw [e] at h <;> cases h
    exacts [.inl rfl, .inr ⟨c, raisable_of_popSlot_error hc, rfl⟩]
  | chmod n =>
    rcases exec_chmod_cases n s with e | ⟨-, _, e⟩ <;> rw [e] at h <;> cases h
    exacts [.inr ⟨_, raisable_of_mem (by decide), rfl⟩, .inl rfl]
  | svc => cases h; exact .inr ⟨_, raisable_of_mem (by decide), rfl⟩
  | _ =>
    rw [show t = _ from exec_changesOnly h]
    exact .inl rfl

/-- An instruction leaves Running alone, unless it is SVC with AC = 0, which clears it (R148, R220). -/
theorem exec_running {i : Instr} {s t : State} (h : exec i s = .next t) :
    t.running = s.running ∨ (i = .svc ∧ s.ac = 0 ∧ t.running = false) := by
  cases i with
  | svc =>
    obtain ⟨hzero, hne⟩ := svcRaisesAndMayEndTheRun s
    by_cases hac : s.ac = 0
    · rw [hzero hac] at h
      cases h
      exact .inr ⟨rfl, hac, rfl⟩
    · rw [hne hac] at h
      cases h
      exact .inl rfl
  | _ =>
    rw [show t = _ from exec_changesOnly h]
    exact .inl rfl

/-- No instruction leaves user mode (R321). -/
theorem exec_mode_of_user {i : Instr} {s t : State} (huser : s.mode = .user) (h : exec i s = .next t) :
    t.mode = .user := by
  cases i with
  | chmod n =>
    rw [exec_chmod_of_user huser n] at h
    cases h
    exact huser
  | _ =>
    rw [show t = _ from exec_changesOnly h]
    exact huser

/-- No instruction disarms the DMA unit (R286). -/
theorem exec_dma_active {i : Instr} {s t : State} (hactive : s.dma.active = true) (h : exec i s = .next t) :
    t.dma.active = true := by
  cases i with
  | sdmaon => cases h; rfl
  | _ =>
    rw [show t = _ from exec_changesOnly h]
    exact hactive

end Sys2Proof.Machine
end

section
/-! SUPPORT. Every instruction: where it stores, and what a user-mode instruction can store and see (R75, R77, R81). -/

namespace Sys2Proof.Machine

/-- A store listed for a checked address is one whose check passed with that address. -/
theorem map_toOption_eq_some {e : Except InterruptCode Int} {w a v : Int}
    (h : (e.toOption.map fun x => (x, w)) = some (a, v)) : e = .ok a ∧ w = v := by
  cases e with
  | ok x => cases h; exact ⟨rfl, rfl⟩
  | error c => cases h

/-- The three instructions that store, each with its checked address and its register. -/
theorem storeOf_eq_some {i : Instr} {s : State} {a v : Int} (h : storeOf i s = some (a, v)) :
    (∃ op, s.target op = .ok a ∧ ((i = .store op ∧ v = s.ac) ∨ (i = .strrx op ∧ v = s.rx))) ∨
      (i = .psh ∧ s.pushSlot = .ok a ∧ v = s.ac) := by
  cases i with
  | store op =>
    obtain ⟨htarget, rfl⟩ := map_toOption_eq_some h
    exact .inl ⟨op, htarget, .inl ⟨rfl, rfl⟩⟩
  | strrx op =>
    obtain ⟨htarget, rfl⟩ := map_toOption_eq_some h
    exact .inl ⟨op, htarget, .inr ⟨rfl, rfl⟩⟩
  | psh =>
    obtain ⟨hslot, rfl⟩ := map_toOption_eq_some h
    exact .inr ⟨rfl, hslot, rfl⟩
  | _ => cases h

/-- A store goes to a valid address, or is a push inside [RX, RL) and memory. -/
theorem storeOf_bounds {i : Instr} {s : State} {a v : Int} (h : storeOf i s = some (a, v)) :
    s.Valid a ∨ (i = .psh ∧ s.rx ≤ a ∧ a < s.rl ∧ InMachine a) := by
  rcases storeOf_eq_some h with ⟨op, htarget, -⟩ | ⟨rfl, hslot, -⟩
  · exact .inl (target_ok htarget)
  · obtain ⟨-, hbounds⟩ := pushSlot_ok hslot
    exact .inr ⟨rfl, hbounds⟩

/-- A store lies in memory. -/
theorem storeOf_inMachine {i : Instr} {s : State} {a v : Int} (h : storeOf i s = some (a, v)) : InMachine a := by
  rcases storeOf_bounds h with ⟨hin, -⟩ | ⟨-, -, -, hin⟩ <;> exact hin

/-- An instruction's memory is the one before it, with its one store if it has one (R81). -/
theorem exec_mem {i : Instr} {s t : State} (h : exec i s = .next t) :
    (storeOf i s = none ∧ t.mem = s.mem) ∨
      ∃ a v, storeOf i s = some (a, v) ∧ t.mem = s.mem.write a.toNat v := by
  cases i with
  | store op =>
    rcases withTarget_cases h with ⟨a, ha, rfl⟩ | ⟨c, hc, rfl⟩
    exacts [.inr ⟨a, s.ac, by simp [storeOf, ha, Except.toOption], rfl⟩,
      .inl ⟨by simp [storeOf, hc, Except.toOption], rfl⟩]
  | strrx op =>
    rcases withTarget_cases h with ⟨a, ha, rfl⟩ | ⟨c, hc, rfl⟩
    exacts [.inr ⟨a, s.rx, by simp [storeOf, ha, Except.toOption], rfl⟩,
      .inl ⟨by simp [storeOf, hc, Except.toOption], rfl⟩]
  | psh =>
    rcases exec_psh_cases s with ⟨a, ha, e⟩ | ⟨c, hc, e⟩ <;> rw [e] at h <;> cases h
    exacts [.inr ⟨a, s.ac, by simp [storeOf, ha, Except.toOption], rfl⟩,
      .inl ⟨by simp [storeOf, hc, Except.toOption], rfl⟩]
  | _ =>
    rw [show t = _ from exec_changesOnly h]
    exact .inl ⟨rfl, rfl⟩

/-- Settles O26: the memory after is the one before, with the one store written if there is one. -/
theorem everyInstructionStoresOnlyAtItsAddress : Obligations.EveryInstructionStoresOnlyAtItsAddress := by
  intro i s t h
  rcases exec_mem h with ⟨hnone, hmem⟩ | ⟨a, v, hsome, hmem⟩ <;> rw [hmem]
  · exact ⟨fun a v hsome => absurd (hnone.symm.trans hsome) (by simp), fun _ b => rfl⟩
  · refine ⟨fun a' v' h' => ?_, fun hnone => absurd (hnone.symm.trans hsome) (by simp)⟩
    cases hsome.symm.trans h'
    exact read_write_frame s a.toNat v

/-- Settles O57: a changed word is the one stored, and a store is valid or a push within its bounds. -/
theorem userModeStoresStayInTheirWindow : Obligations.UserModeStoresStayInTheirWindow := by
  intro i s t b huser h hchanged
  rcases exec_mem h with ⟨-, hmem⟩ | ⟨a, v, hsome, hmem⟩ <;> rw [hmem] at hchanged
  · exact absurd rfl hchanged
  · have hb : b = a.toNat := by
      by_contra hne
      exact hchanged (Memory.read_write_other s.mem a.toNat b v hne)
    rcases storeOf_bounds hsome with hvalid | ⟨rfl, hguard, hlimit, hin⟩
    · obtain ⟨hlow, hhigh, hwindow⟩ := (valid_iff s a).mp hvalid
      rcases hwindow with hkernel | ⟨hbase, hlimit⟩
      · rw [huser] at hkernel
        cases hkernel
      · exact ⟨by omega, by omega, .inl (by omega)⟩
    · rw [inMachine_iff] at hin
      exact ⟨by omega, by omega, .inr ⟨rfl, by omega⟩⟩

/-- A user-mode read sees only memory in [RB, RL) (R75). -/
theorem readChecked_of_agree {s : State} {m : Memory} (huser : s.mode = .user)
    (hagree : ∀ b : Nat, s.rb ≤ b → (b : Int) < s.rl → m.read b = s.mem.read b) (a : Int) :
    { s with mem := m }.readChecked a = s.readChecked a := by
  rcases readChecked_cases s a with ⟨hvalid, e⟩ | ⟨hinvalid, e⟩ <;> rw [e]
  · obtain ⟨hlow, -, hwindow⟩ := (valid_iff s a).mp hvalid
    have hmode : s.mode ≠ .kernel := by rw [huser]; decide
    obtain ⟨hbase, hlimit⟩ := hwindow.resolve_left hmode
    have hword : m.read a.toNat = s.mem.read a.toNat := hagree a.toNat (by omega) (by omega)
    exact (readChecked_valid (s := { s with mem := m }) hvalid).trans (congrArg Except.ok hword)
  · exact readChecked_invalid (s := { s with mem := m }) hinvalid

/-- Settles O58: an operand form reads memory by one checked read at most. -/
theorem userModeOperandsSeeOnlyTheirWindow : Obligations.UserModeOperandsSeeOnlyTheirWindow := by
  intro s op m huser hagree
  cases op with
  | direct n => exact readChecked_of_agree huser hagree _
  | indexed n => exact readChecked_of_agree huser hagree _
  | immediate n => rfl
  | illegalMode k n => rfl

end Sys2Proof.Machine
end

section
/-! SUPPORT. The CPU's actions and its whole cycle, phase by phase (R140 to R146). -/

namespace Sys2Proof.Machine

/-- Sequencing is associative. -/
theorem andThen_assoc (r : StepResult) (k l : State → StepResult) :
    andThen (andThen r k) l = andThen r fun t => andThen (k t) l := by
  cases r <;> rfl

/-- A CPU turn is the CPU's action and nothing else. -/
theorem step_of_cpu_turn {s : State} {rest : List Turn} (h : s.script = .unit .cpu :: rest) :
    step s = { s with script := rest }.cpuAction := step_of_script h

/-- A cycle turn is the CPU's whole cycle and nothing else. -/
theorem step_of_cpuCycle_turn {s : State} {rest : List Turn} (h : s.script = .unit .cpuCycle :: rest) :
    step s = { s with script := rest }.cpuCycle := step_of_script h

/-- A Stopped CPU does nothing. -/
theorem cpuAction_of_stopped {s : State} (h : s.cpuPhase = .stopped) : s.cpuAction = .next s := by
  simp [State.cpuAction, h]

/-- A running CPU in the fetch phase fetches. -/
theorem cpuAction_of_fetch {s : State} (h : s.cpuPhase = .fetch) (hrunning : s.running = true) :
    s.cpuAction = .next s.fetchAction := by
  simp [State.cpuAction, h, hrunning]

/-- A CPU in the fetch phase stops once Running is clear. -/
theorem cpuAction_of_fetch_clear {s : State} (h : s.cpuPhase = .fetch) (hclear : s.running = false) :
    s.cpuAction = .next { s with cpuPhase := .stopped } := by
  simp [State.cpuAction, h, hclear]

/-- In the execute phase the CPU's action is the execute action. -/
theorem cpuAction_of_execute {s : State} (h : s.cpuPhase = .execute) : s.cpuAction = s.executeAction := by
  simp [State.cpuAction, h]

/-- What a fetch from a valid PC leaves (R141). -/
def State.fetched (s : State) : State :=
  { s with mar := s.pc, mdr := s.memRead s.pc, ir := s.memRead s.pc, pc := s.pc + 1, cpuPhase := .execute }

/-- What a fetch from another PC leaves (R141). -/
def State.fetchFailed (s : State) : State :=
  { s with mar := s.pc, cpuPhase := .check, slot := s.slot.raise .invalidAddress }

/-- A fetch from a valid PC. -/
theorem fetchAction_of_valid {s : State} (h : s.Valid s.pc) : s.fetchAction = s.fetched := if_pos h

/-- A fetch from another PC. -/
theorem fetchAction_of_not_valid {s : State} (h : ¬ s.Valid s.pc) : s.fetchAction = s.fetchFailed := if_neg h

/-- The execute action of a word that decodes is its instruction, between the trace event and the check phase. -/
theorem executeAction_of_ok {s : State} {i : Instr} (h : decode s.ir = .ok i) :
    s.executeAction =
      andThen (exec i (s.emit (.executed s.mar s.ir))) fun t => .next { t with cpuPhase := .check } := by
  simp [State.executeAction, State.executeIr, h]

/-- The execute action of a word that is no instruction raises 5 (R144). -/
theorem executeAction_of_error {s : State} {e : IllegalWord} (h : decode s.ir = .error e) :
    s.executeAction =
      .next { (s.emit (.executed s.mar s.ir)).raise .illegalInstruction with cpuPhase := .check } := by
  simp [State.executeAction, State.executeIr, h]

/-- The execute action answers a next state. -/
theorem executeAction_next (s : State) : ∃ t, s.executeAction = .next t := by
  cases h : decode s.ir with
  | ok i =>
    obtain ⟨m, hm⟩ := everyInstructionAnswersANextState i (s.emit (.executed s.mar s.ir))
    exact ⟨_, by rw [executeAction_of_ok h, hm, andThen_next]⟩
  | error e => exact ⟨_, executeAction_of_error h⟩

/-- The execute action ends in the check phase. -/
theorem executeAction_cpuPhase {s t : State} (h : s.executeAction = .next t) : t.cpuPhase = .check := by
  rcases executeAction_cases h with ⟨i, m, -, -, rfl⟩ | ⟨e, -, rfl⟩ <;> rfl

/-- The CPU's action answers a next state. -/
theorem cpuAction_next (s : State) : ∃ t, s.cpuAction = .next t := by
  cases h : s.cpuPhase with
  | stopped => exact ⟨s, cpuAction_of_stopped h⟩
  | fetch =>
    cases hrunning : s.running with
    | true => exact ⟨_, cpuAction_of_fetch h hrunning⟩
    | false => exact ⟨_, cpuAction_of_fetch_clear h hrunning⟩
  | execute =>
    rw [cpuAction_of_execute h]
    exact executeAction_next s
  | check => exact ⟨_, cpuAction_of_check h⟩

/-- A cycle in the execute phase ends with the execute action and the check point. -/
theorem finishCycle_of_execute {s : State} (h : s.cpuPhase = .execute) :
    s.finishCycle = andThen s.executeAction fun t => .next t.checkPoint := by
  simp [State.finishCycle, h]

/-- A cycle with a valid PC is the fetch, the execute action and the check point. -/
theorem cpuCycle_of_ready {s : State} (h : s.ReadyToFetch) :
    s.cpuCycle = andThen s.fetched.executeAction fun t => .next t.checkPoint := by
  obtain ⟨hphase, hrunning, hvalid⟩ := h
  rw [State.cpuCycle, cpuAction_of_fetch hphase hrunning, fetchAction_of_valid hvalid, andThen_next]
  exact finishCycle_of_execute rfl

/-- Settles O29: the turn is the fetch action, and the address check decides between its two outcomes. -/
theorem fetchReadsTheWordOrRaises : Obligations.FetchReadsTheWordOrRaises := by
  intro s rest hscript hphase hrunning
  rw [step_of_cpu_turn hscript, cpuAction_of_fetch (s := { s with script := rest }) hphase hrunning]
  exact ⟨fun hvalid => congrArg _ (fetchAction_of_valid (s := { s with script := rest }) hvalid),
    fun hinvalid => congrArg _ (fetchAction_of_not_valid (s := { s with script := rest }) hinvalid)⟩

/-- Settles O30: the two phases in which the CPU does not go on. -/
theorem cpuStopsOnceRunningIsClear : Obligations.CpuStopsOnceRunningIsClear := by
  intro s rest hscript
  rw [step_of_cpu_turn hscript]
  exact ⟨fun hphase hclear => cpuAction_of_fetch_clear (s := { s with script := rest }) hphase hclear,
    fun hphase => cpuAction_of_stopped (s := { s with script := rest }) hphase⟩

/-- Settles O31: the turn is the execute action, and the decoder decides between its two bodies. -/
theorem executeActionRunsTheInstructionInIr : Obligations.ExecuteActionRunsTheInstructionInIr := by
  intro s rest hscript hphase
  rw [step_of_cpu_turn hscript, cpuAction_of_execute (s := { s with script := rest }) hphase]
  refine ⟨fun i t hdecode hexec => ?_, fun e hdecode => ?_⟩
  · exact (executeAction_of_ok (s := { s with script := rest }) hdecode).trans (congrArg (andThen · _) hexec)
  · exact executeAction_of_error (s := { s with script := rest }) hdecode

/-- Settles O32: the two cases of the script. -/
theorem stepTakesTheNextTurn : Obligations.StepTakesTheNextTurn :=
  fun _ => ⟨fun _ _ hscript => step_of_script hscript, fun hspent => step_of_spent_script hspent⟩

/-- Taking the turn off the script leaves the CPU ready to fetch. -/
theorem readyToFetch_consumeTurn {s : State} (hphase : s.cpuPhase = .fetch) (hrunning : s.running = true)
    (hvalid : s.Valid s.pc) : s.consumeTurn.ReadyToFetch := by
  refine ⟨by simpa using hphase, by simpa using hrunning, ?_⟩
  rw [valid_iff] at hvalid ⊢
  simpa using hvalid

/-- Settles O33: the cycle of a ready CPU is the execute action of the fetched word and the check point. -/
theorem stepRunsTheDecodedInstruction : Obligations.StepRunsTheDecodedInstruction := by
  intro s i hturn hphase hrunning hvalid hdecode
  have hir : decode s.consumeTurn.fetched.ir = .ok i := by simpa [State.fetched, State.memRead] using hdecode
  rw [step_eq, hturn]
  refine (cpuCycle_of_ready (readyToFetch_consumeTurn hphase hrunning hvalid)).trans ?_
  rw [executeAction_of_ok hir, andThen_assoc]
  simp [State.fetched, State.emit, State.memRead]

/-- A raise behind a pending code leaves the slot as it is (R302). -/
theorem slot_raise_of_pending {slot : Slot} (h : slot.pending = true) (c : InterruptCode) : slot.raise c = slot := by
  simp [Slot.raise, h]

/-- Behind a pending code no instruction changes the slot. -/
theorem exec_slot_of_pending {i : Instr} {s t : State} (hpending : s.slot.pending = true) (h : exec i s = .next t) :
    t.slot = s.slot := by
  rcases exec_slot h with hslot | ⟨c, -, hslot⟩
  exacts [hslot, hslot.trans (slot_raise_of_pending hpending c)]

/-- Behind a pending code the execute action changes neither the slot nor, SVC with AC = 0 apart, Running, and its one
event is the trace event. -/
theorem executeAction_of_pending {s t : State} (hpending : s.slot.pending = true)
    (hsvc : ¬ (decode s.ir = .ok .svc ∧ s.ac = 0)) (h : s.executeAction = .next t) :
    t.slot = s.slot ∧ t.running = s.running ∧ t.history = .executed s.mar s.ir :: s.history := by
  rcases executeAction_cases h with ⟨i, m, hdecode, hexec, rfl⟩ | ⟨e, -, rfl⟩
  · have hslot : m.slot = s.slot := exec_slot_of_pending (s := s.emit (.executed s.mar s.ir)) hpending hexec
    refine ⟨hslot, ?_, (exec_frame hexec).history⟩
    rcases exec_running hexec with hrunning | ⟨rfl, hzero, -⟩
    exacts [hrunning, absurd ⟨hdecode, hzero⟩ hsvc]
  · exact ⟨slot_raise_of_pending hpending _, rfl, rfl⟩

/-- Settles O35: neither the fetch nor the execute action touches the pending code, which the check point delivers. -/
theorem raiseBehindAPendingCodeIsLost : Obligations.RaiseBehindAPendingCodeIsLost := by
  intro s rest hscript hphase hrunning hvalid hpending hcode hsvc
  obtain ⟨t, ht⟩ := executeAction_next { s with script := rest }.fetched
  obtain ⟨(hslot : t.slot = s.slot), (hrun : t.running = s.running), hhistory⟩ :=
    executeAction_of_pending (s := { s with script := rest }.fetched) hpending hsvc ht
  have hrecoverable : s.slot.code.isFatal = false := not_isFatal_of_mem_recoverable_codes _ hcode
  refine ⟨t.checkPoint, ?_, ?_⟩
  · rw [step_of_cpuCycle_turn hscript,
      cpuCycle_of_ready (s := { s with script := rest }) ⟨hphase, hrunning, hvalid⟩, ht, andThen_next]
  · rw [checkPoint_of_pending (by rw [hslot]; exact hpending), hslot]
    exact ⟨by simp [hrecoverable, hrun, hrunning], rfl, rfl, congrArg _ hhistory⟩

end Sys2Proof.Machine
end

section
/-! SUPPORT. The timer's and the DMA unit's steps in every phase (R331 to R344). -/

namespace Sys2Proof.Machine

/-- A timer exit turn is the exit step and nothing else. -/
theorem step_of_timerExit_turn {s : State} {rest : List Turn} (h : s.script = .unit .timerExit :: rest) :
    step s = .next { s with script := rest }.timerExit := step_of_script h

/-- A DMA exit turn is the exit step and nothing else. -/
theorem step_of_dmaExit_turn {s : State} {rest : List Turn} (h : s.script = .unit .dmaExit :: rest) :
    step s = .next { s with script := rest }.dmaExit := step_of_script h

/-- A Stopped timer does nothing. -/
theorem timerAction_of_stopped {s : State} (h : s.timerPhase = .stopped) : s.timerAction = s := by
  simp [State.timerAction, h]

/-- A sleeping timer fires. -/
theorem timerAction_of_sleeping {s : State} (h : s.timerPhase = .sleeping) :
    s.timerAction = { s with slot := s.slot.raise .clockTick, timerPhase := .checking } := by
  simp [State.timerAction, h, State.raise]

/-- The timer did nothing, stopped, went to sleep, or fired. -/
theorem timerAction_cases (s : State) :
    s.timerAction = s ∨
      (s.timerPhase = .checking ∧ s.running = false ∧ s.timerAction = { s with timerPhase := .stopped }) ∨
      (s.timerPhase = .checking ∧ s.running = true ∧ s.timerAction = { s with timerPhase := .sleeping }) ∨
      (s.timerPhase = .sleeping ∧
        s.timerAction = { s with slot := s.slot.raise .clockTick, timerPhase := .checking }) := by
  cases h : s.timerPhase with
  | stopped => exact .inl (timerAction_of_stopped h)
  | checking =>
    rw [timerAction_of_checking h]
    cases s.running with
    | false => exact .inr (.inl ⟨rfl, rfl, rfl⟩)
    | true =>
      rw [if_neg (by decide)]
      split
      exacts [.inl rfl, .inr (.inr (.inl ⟨rfl, rfl, rfl⟩))]
  | sleeping => exact .inr (.inr (.inr ⟨rfl, timerAction_of_sleeping h⟩))

/-- The timer's exit step stopped it from its sleep, with Running clear, or did nothing. -/
theorem timerExit_cases (s : State) :
    s.timerExit = s ∨
      (s.timerPhase = .sleeping ∧ s.running = false ∧ s.timerExit = { s with timerPhase := .stopped }) := by
  unfold State.timerExit
  split
  · next h => exact .inr ⟨h.1, h.2, rfl⟩
  · exact .inl rfl

/-- Settles O37: the fire step, and the exit step by its test of Running. -/
theorem sleepingTimerFiresOrExits : Obligations.SleepingTimerFiresOrExits := by
  refine fun s rest hphase => ⟨fun hscript => ?_, fun hscript hclear => ?_, fun hscript hrunning => ?_⟩
  · rw [step_of_timer_turn hscript, timerAction_of_sleeping (s := { s with script := rest }) hphase]
  · rw [step_of_timerExit_turn hscript, State.timerExit, if_pos ⟨hphase, hclear⟩]
  · rw [step_of_timerExit_turn hscript, State.timerExit, if_neg (by simp [hrunning])]

/-- A Stopped DMA unit does nothing. -/
theorem dmaAction_of_stopped {s : State} (h : s.dmaPhase = .stopped) : s.dmaAction = s := by
  simp [State.dmaAction, h]

/-- A Busy DMA unit transfers. -/
theorem dmaAction_of_busy {s : State} (h : s.dmaPhase = .busy) : s.dmaAction = s.dmaTransfer := by
  simp [State.dmaAction, h]

/-- The DMA unit did nothing, stopped, started an armed transfer, or transferred. -/
theorem dmaAction_cases (s : State) :
    s.dmaAction = s ∨
      (s.dmaPhase = .idle ∧ s.running = false ∧ s.dmaAction = { s with dmaPhase := .stopped }) ∨
      (s.dmaPhase = .idle ∧ s.dma.active = true ∧ s.dmaAction = { s with dmaPhase := .busy }) ∨
      (s.dmaPhase = .busy ∧ s.dmaAction = s.dmaTransfer) := by
  cases h : s.dmaPhase with
  | stopped => exact .inl (dmaAction_of_stopped h)
  | idle =>
    rw [dmaAction_of_idle h]
    cases s.running with
    | false => exact .inr (.inl ⟨rfl, rfl, rfl⟩)
    | true =>
      rw [if_neg (by decide)]
      split
      · next hactive => exact .inr (.inr (.inl ⟨rfl, hactive, rfl⟩))
      · exact .inl rfl
  | busy => exact .inr (.inr (.inr ⟨rfl, dmaAction_of_busy h⟩))

/-- The DMA unit's exit step stopped it from Busy, with Running clear, or did nothing. -/
theorem dmaExit_cases (s : State) :
    s.dmaExit = s ∨ (s.dmaPhase = .busy ∧ s.running = false ∧ s.dmaExit = { s with dmaPhase := .stopped }) := by
  unfold State.dmaExit
  split
  · next h => exact .inr ⟨h.1, h.2, rfl⟩
  · exact .inl rfl

/-- Settles O41: the exit step's test of Running decides. -/
theorem busyDmaMayAbandonTheTransfer : Obligations.BusyDmaMayAbandonTheTransfer := by
  refine fun s rest hscript hphase => ⟨fun hclear => ?_, fun hrunning => ?_⟩ <;>
    rw [step_of_dmaExit_turn hscript, State.dmaExit]
  · rw [if_pos ⟨hphase, hclear⟩]
  · rw [if_neg (by simp [hrunning])]

/-- The sector the DMA registers name. -/
def DmaRegisters.place (d : DmaRegisters) : Nat := sectorNumber d.track d.cylinder d.sector

/-- Legal registers name a sector of the disk (R53, R342). -/
theorem place_lt {d : DmaRegisters} (h : d.Legal) : d.place < diskSize := by
  obtain ⟨ht, hc, hn, -, -⟩ := h
  exact sectorNumber_lt ht hc hn

/-- Legal registers name a direction (R342). -/
theorem direction_of_legal {d : DmaRegisters} (h : d.Legal) : d.direction = 0 ∨ d.direction = 1 := by
  obtain ⟨-, -, -, -, hdirection⟩ := h
  exact hdirection

/-- A legal transfer of direction 1 writes the sector (R342). -/
theorem dmaTransfer_to_disk {s : State} (hlegal : s.dma.Legal) (hdirection : s.dma.direction = 1) :
    s.dmaTransfer =
      { s with
        disk := s.disk.write s.dma.place (sectorValue (s.mem.read s.dma.address))
        slot := s.slot.raise .ioCompletion
        dma := { s.dma with status := .success, active := false }
        dmaPhase := .idle } := by
  rw [State.dmaTransfer, State.dmaMoveIfLegal, State.dmaOutcome, if_pos hlegal, if_pos hlegal, State.dmaMove,
    if_pos hdirection]
  rfl

/-- A legal transfer of direction 0 writes the word (R342). -/
theorem dmaTransfer_to_memory {s : State} (hlegal : s.dma.Legal) (hdirection : s.dma.direction = 0) :
    s.dmaTransfer =
      { s with
        mem := s.mem.write s.dma.address (s.disk.read s.dma.place)
        slot := s.slot.raise .ioCompletion
        dma := { s.dma with status := .success, active := false }
        dmaPhase := .idle } := by
  rw [State.dmaTransfer, State.dmaMoveIfLegal, State.dmaOutcome, if_pos hlegal, if_pos hlegal, State.dmaMove,
    if_neg (by omega)]
  rfl

/-- A transfer with an illegal register moves nothing and sets the error status (R342). -/
theorem dmaTransfer_of_illegal {s : State} (hillegal : ¬ s.dma.Legal) :
    s.dmaTransfer =
      { s with
        slot := s.slot.raise .ioCompletion
        dma := { s.dma with status := .error, active := false }
        dmaPhase := .idle } := by
  rw [State.dmaTransfer, State.dmaMoveIfLegal, State.dmaOutcome, if_neg hillegal, if_neg hillegal]
  rfl

/-- A transfer moved a word to the disk, moved one to memory, or failed; it raised 4 and disarmed in any case. -/
theorem dmaTransfer_cases (s : State) :
    ∃ mem disk status,
      s.dmaTransfer =
        { s with
          mem := mem
          disk := disk
          slot := s.slot.raise .ioCompletion
          dma := { s.dma with status := status, active := false }
          dmaPhase := .idle } ∧
      ((mem = s.mem ∧ disk = s.disk) ∨
        (s.dma.Legal ∧ mem = s.mem ∧ disk = s.disk.write s.dma.place (sectorValue (s.mem.read s.dma.address))) ∨
        (s.dma.Legal ∧ disk = s.disk ∧ mem = s.mem.write s.dma.address (s.disk.read s.dma.place))) := by
  by_cases hlegal : s.dma.Legal
  · rcases direction_of_legal hlegal with hdirection | hdirection
    · exact ⟨_, _, _, dmaTransfer_to_memory hlegal hdirection, .inr (.inr ⟨hlegal, rfl, rfl⟩)⟩
    · exact ⟨_, _, _, dmaTransfer_to_disk hlegal hdirection, .inr (.inl ⟨hlegal, rfl, rfl⟩)⟩
  · exact ⟨_, _, _, dmaTransfer_of_illegal hlegal, .inl ⟨rfl, rfl⟩⟩

/-- Settles O40: the transfer by legality and direction, and the sector numbers by their digits. -/
theorem dmaTransferMovesOneWordOrFails : Obligations.DmaTransferMovesOneWordOrFails := by
  refine ⟨fun s rest hscript hphase => ?_, fun t c n t' c' n' ht hc hn ht' hc' hn' =>
    ⟨sectorNumber_lt ht hc hn, by decide, sectorNumber_inj hc hn hc' hn'⟩⟩
  rw [step_of_dma_turn hscript, dmaAction_of_busy (s := { s with script := rest }) hphase]
  refine ⟨fun htrack hcylinder hsector haddress => ⟨fun hdirection => ?_, fun hdirection => ?_⟩, fun houtside => ?_⟩
  · exact congrArg _ (dmaTransfer_to_disk (s := { s with script := rest })
      ⟨htrack, hcylinder, hsector, haddress, .inr hdirection⟩ hdirection)
  · exact congrArg _ (dmaTransfer_to_memory (s := { s with script := rest })
      ⟨htrack, hcylinder, hsector, haddress, .inl hdirection⟩ hdirection)
  · refine congrArg _ (dmaTransfer_of_illegal (s := { s with script := rest }) ?_)
    simp only [DmaRegisters.Legal, Config.diskTracks, Config.diskCylinders, Config.diskSectors, Config.memWords]
    omega

/-- A transfer leaves every other word and every other sector as it was. -/
theorem dmaTransfer_frame (s : State) :
    (∀ b, b ≠ s.dma.address → s.dmaTransfer.mem.read b = s.mem.read b) ∧
      ∀ b, b ≠ s.dma.place → s.dmaTransfer.disk.read b = s.disk.read b := by
  obtain ⟨_, _, _, e, hmoved⟩ := dmaTransfer_cases s
  rw [e]
  rcases hmoved with ⟨rfl, rfl⟩ | ⟨-, rfl, rfl⟩ | ⟨-, rfl, rfl⟩
  · exact ⟨fun _ _ => rfl, fun _ _ => rfl⟩
  · exact ⟨fun _ _ => rfl, fun b hb => Memory.read_write_other s.disk _ b _ hb⟩
  · exact ⟨fun b hb => Memory.read_write_other s.mem _ b _ hb, fun _ _ => rfl⟩

/-- Settles O44: each of the units' steps is one of its named outcomes. -/
theorem unitsLeaveTheCpuAlone : Obligations.UnitsLeaveTheCpuAlone := by
  refine fun s t => ⟨fun a ha h => ?_, fun a ha h => ?_⟩ <;>
    simp only [List.mem_cons, List.not_mem_nil, or_false] at ha <;> rcases ha with rfl | rfl <;> cases h
  · rcases timerAction_cases s with e | ⟨-, -, e⟩ | ⟨-, -, e⟩ | ⟨-, e⟩ <;> rw [e]
  · rcases timerExit_cases s with e | ⟨-, -, e⟩ <;> rw [e]
  · rcases dmaAction_cases s with e | ⟨-, -, e⟩ | ⟨-, -, e⟩ | ⟨-, e⟩ <;> rw [e]
    · exact ⟨rfl, fun _ _ => rfl, fun _ _ => rfl⟩
    · exact ⟨rfl, fun _ _ => rfl, fun _ _ => rfl⟩
    · exact ⟨rfl, fun _ _ => rfl, fun _ _ => rfl⟩
    · refine ⟨?_, dmaTransfer_frame s⟩
      obtain ⟨_, _, _, e, -⟩ := dmaTransfer_cases s
      rw [e]
  · rcases dmaExit_cases s with e | ⟨-, -, e⟩ <;> rw [e] <;> exact ⟨rfl, fun _ _ => rfl, fun _ _ => rfl⟩

end Sys2Proof.Machine
end

section
/-! SUPPORT. The text of a sector: the digits of a number spell it, and a Word has at most nine characters (R341). -/

namespace Sys2Proof.Machine

/-- The last digit is the last to be added. -/
theorem parseDigits_append (l : List TextChar) (d acc : Nat) :
    parseDigits acc (l ++ [.digit d]) = parseDigits acc l * 10 + d := by
  induction l generalizing acc with
  | nil => rfl
  | cons c l ih => cases c <;> exact ih _

/-- Enough digits of a number spell it. -/
theorem parseDigits_decimalDigitsUpTo (fuel : Nat) :
    ∀ n, n < 10 ^ fuel → parseDigits 0 ((decimalDigitsUpTo fuel n).map TextChar.digit) = n := by
  induction fuel with
  | zero =>
    intro n hn
    obtain rfl : n = 0 := by simpa using hn
    rfl
  | succ fuel ih =>
    intro n hn
    rw [decimalDigitsUpTo]
    split
    · simp [parseDigits]
    · rw [List.map_append, List.map_singleton, parseDigits_append, ih _ (by rw [Nat.pow_succ] at hn; omega)]
      omega

/-- The digits of a number spell it. -/
theorem parseDigits_decimalDigits (n : Nat) : parseDigits 0 ((decimalDigits n).map TextChar.digit) = n := by
  refine parseDigits_decimalDigitsUpTo _ n ?_
  calc n < 2 ^ (n.log2 + 1) := Nat.lt_log2_self
    _ ≤ 10 ^ (n.log2 + 1) := Nat.pow_le_pow_left (by decide) _

/-- A number below a power of ten has at most as many digits. -/
theorem length_decimalDigitsUpTo_le (fuel : Nat) :
    ∀ k n, 0 < k → n < 10 ^ k → (decimalDigitsUpTo fuel n).length ≤ k := by
  induction fuel with
  | zero => intro k n _ _; exact Nat.zero_le k
  | succ fuel ih =>
    intro k n hk hn
    rw [decimalDigitsUpTo]
    split
    · exact hk
    · next hten =>
      obtain ⟨j, rfl⟩ : ∃ j, k = j + 1 := ⟨k - 1, by omega⟩
      rw [Nat.pow_succ] at hn
      have hj : 0 < j := by
        rcases Nat.eq_zero_or_pos j with rfl | hj
        · omega
        · exact hj
      have hrest := ih j (n / 10) hj (by omega)
      rw [List.length_append, List.length_singleton]
      omega

/-- The text of a Word fits a sector. -/
theorem length_sectorText_le {v : Int} (h : InWord v) : (sectorText v).length ≤ Config.sectorChars := by
  rw [inWord_iff] at h
  have hdigits : (decimalDigits v.natAbs).length ≤ 8 := length_decimalDigitsUpTo_le _ 8 v.natAbs (by decide) (by omega)
  have hsign : (if v < 0 then [TextChar.minus] else []).length ≤ 1 := by split <;> simp
  rw [sectorText, List.length_append, List.length_map, Config.sectorChars]
  omega

/-- A text of digits alone is no negative number. -/
theorem parseText_digits (l : List Nat) : parseText (l.map TextChar.digit) = parseDigits 0 (l.map TextChar.digit) := by
  cases l <;> rfl

/-- The text of a number spells it. -/
theorem parseText_sectorText (v : Int) : parseText (sectorText v) = v := by
  rw [sectorText]
  split
  · show -(parseDigits 0 ((decimalDigits v.natAbs).map TextChar.digit) : Int) = v
    rw [parseDigits_decimalDigits]
    omega
  · rw [List.nil_append, parseText_digits, parseDigits_decimalDigits]
    omega

/-- A sector keeps a Word (R341). -/
theorem sectorValue_of_inWord {v : Int} (h : InWord v) : sectorValue v = v := by
  rw [sectorValue, List.take_of_length_le (length_sectorText_le h), parseText_sectorText]

/-- Settles O42: the text is not cut, and it spells the Word. -/
theorem sectorTextKeepsEveryWord : Obligations.SectorTextKeepsEveryWord :=
  fun _ hlow hhigh => sectorValue_of_inWord ⟨hlow, hhigh⟩

/-- A transfer to memory after one with legal registers reads the same sector. -/
theorem dmaTransfer_read_back {u : State} {b : Nat} (hlegal : u.dma.Legal) (hb : b < 2000) :
    { u with dma := { u.dma with direction := 0, address := b } }.dmaTransfer =
      { u with
        mem := u.mem.write b (u.disk.read u.dma.place)
        slot := u.slot.raise .ioCompletion
        dma := { u.dma with direction := 0, address := b, status := .success, active := false }
        dmaPhase := .idle } := by
  obtain ⟨htrack, hcylinder, hsector, -, -⟩ := hlegal
  exact dmaTransfer_to_memory (s := { u with dma := { u.dma with direction := 0, address := b } })
    ⟨htrack, hcylinder, hsector, hb, .inl rfl⟩ rfl

/-- Settles O43: the first transfer writes the word to its sector, and the second writes that sector's word to b. -/
theorem dmaWriteThenReadReproducesTheWord : Obligations.DmaWriteThenReadReproducesTheWord := by
  rintro s b ⟨⟨hmem, -⟩, ⟨hdisk, -⟩⟩ hlegal hdirection hb hword t rfl
  have hfirst := dmaTransfer_to_disk hlegal hdirection
  rw [sectorValue_of_inWord hword] at hfirst
  rw [dmaTransfer_read_back (by rw [hfirst]; exact hlegal) hb, hfirst]
  refine ⟨?_, fun c hc => Memory.read_write_other s.mem b c _ hc, rfl, rfl⟩
  exact (Memory.read_write_same s.mem b _ hmem).trans (Memory.read_write_same s.disk s.dma.place _ hdisk)

end Sys2Proof.Machine
end

section
/-! SUPPORT. Reset and the host's turns (R400 to R407). -/

namespace Sys2Proof.Machine

/-- A host turn is the host's action and nothing else. -/
theorem step_of_host_turn {s : State} {a : HostAction} {rest : List Turn} (h : s.script = .host a :: rest) :
    step s = { s with script := rest }.hostAction a := step_of_script h

/-- Settles O45: reset's fields, read off. -/
theorem resetZeroesTheMachine : Obligations.ResetZeroesTheMachine := by
  rintro s rfl
  exact ⟨⟨rfl, rfl, rfl, rfl, rfl, rfl, rfl, rfl, rfl⟩, ⟨rfl, rfl, rfl⟩, ⟨rfl, rfl, rfl⟩,
    ⟨rfl, rfl, rfl, rfl, rfl, rfl, rfl⟩, ⟨rfl, rfl, rfl⟩, fun _ => rfl, fun _ => rfl, rfl, rfl, rfl⟩

/-- A load leaves every address outside its range as it was. -/
theorem read_loadWords_outside (words : List Int) :
    ∀ (m : Memory) (a b : Nat), b < a ∨ a + words.length ≤ b → (loadWords m a words).read b = m.read b := by
  induction words with
  | nil => intro m a b _; rfl
  | cons w rest ih =>
    intro m a b hb
    rw [List.length_cons] at hb
    exact (ih _ _ b (by omega)).trans (Memory.read_write_other m a b w (by omega))

/-- A load into a canonical memory puts each word in its place. -/
theorem read_loadWords (size : Nat) (words : List Int) :
    ∀ (m : Memory) (a : Nat), Memory.wf size m → a + words.length ≤ size →
      ∀ (k : Nat) (h : k < words.length), (loadWords m a words).read (a + k) = words[k] := by
  induction words with
  | nil => intro m a _ _ k h; cases h
  | cons w rest ih =>
    intro m a hm ha k h
    rw [List.length_cons] at ha h
    cases k with
    | zero =>
      exact (read_loadWords_outside rest _ _ _ (by omega)).trans (Memory.read_write_same m a w hm.1)
    | succ k =>
      have hplace := ih (m.write a w) (a + 1) (Memory.wf_write size m a w hm (by omega)) (by omega) k (by omega)
      rwa [show a + (k + 1) = a + 1 + k by omega]

/-- Settles O46: the duties hold, and the loaded words are read back one after another. -/
theorem loadWritesItsWordsAndNothingElse : Obligations.LoadWritesItsWordsAndNothingElse := by
  intro s words at_ rest hscript hcanonical hstopped hwords hfits
  refine ⟨loadWords s.mem at_ words, ?_, read_loadWords 2000 words s.mem at_ hcanonical.1 hfits,
    read_loadWords_outside words s.mem at_⟩
  have hduty : LoadDuty { s with script := rest } words at_ :=
    ⟨hstopped, hwords, by omega, by simp only [Config.memWords]; omega⟩
  exact (step_of_host_turn hscript).trans (if_pos hduty)

/-- Settles O47: with its duties kept a dispatch has its move. -/
theorem dispatchStartsTheUnits : Obligations.DispatchStartsTheUnits := by
  intro s base limit off rest hscript hstopped hbase hlimit
  have hduty : DispatchDuty { s with script := rest } base limit := ⟨hstopped, hbase, hlimit⟩
  exact (step_of_host_turn hscript).trans (if_pos hduty)

/-- A host action has no move while a unit is still going (R407). -/
theorem hostAction_of_not_allStopped {s : State} (h : ¬ s.AllStopped) (a : HostAction) :
    s.hostAction a = .refused .hostDutyBroken := by
  cases a with
  | load words loadAddress => exact if_neg fun hduty => h hduty.1
  | setMode mode => exact if_neg h
  | dispatch base limit off => exact if_neg fun hduty => h hduty.1

/-- A host action with a move found every unit stopped and kept its other duties. -/
theorem hostAction_cases {s t : State} {a : HostAction} (h : s.hostAction a = .next t) :
    s.AllStopped ∧
      ((∃ words loadAddress, LoadDuty s words loadAddress ∧
          t = { s with mem := loadWords s.mem loadAddress.toNat words }) ∨
        (∃ mode, a = .setMode mode ∧ t = { s with mode := mode }) ∨
        ∃ base limit off, DispatchDuty s base limit ∧ t = s.dispatched base limit off) := by
  cases a with
  | load words loadAddress =>
    simp only [State.hostAction] at h
    split at h <;> cases h
    next hduty => exact ⟨hduty.1, .inl ⟨words, loadAddress, hduty, rfl⟩⟩
  | setMode mode =>
    simp only [State.hostAction] at h
    split at h <;> cases h
    next hstopped => exact ⟨hstopped, .inr (.inl ⟨mode, rfl, rfl⟩)⟩
  | dispatch base limit off =>
    simp only [State.hostAction] at h
    split at h <;> cases h
    next hduty => exact ⟨hduty.1, .inr (.inr ⟨base, limit, off, hduty, rfl⟩)⟩

/-- Settles O48: each broken duty fails the action's one test. -/
theorem hostActsOnlyWhileEveryUnitIsStopped : Obligations.HostActsOnlyWhileEveryUnitIsStopped := by
  refine fun s rest => ⟨fun mode hscript hstopped => ?_, fun a hscript hgoing => ?_,
    fun words loadAddress hscript hbroken => ?_, fun base limit off hscript hbroken => ?_⟩ <;>
    rw [step_of_host_turn hscript]
  · exact if_pos hstopped
  · exact hostAction_of_not_allStopped (s := { s with script := rest }) hgoing a
  · refine if_neg fun ⟨_, hwords, hlow, hfits⟩ => ?_
    simp only [Config.memWords] at hfits
    rcases hbroken with ⟨w, hw, hrange⟩ | hnegative | habove
    · have := (inWord_iff w).mp (hwords w hw)
      omega
    · omega
    · omega
  · refine if_neg fun ⟨_, hbase, hlimit⟩ => ?_
    rw [inWord_iff] at hbase hlimit
    omega

end Sys2Proof.Machine
end

section
/-! SUPPORT. No action reads PSW.ie or the turns to come: every action commutes with overwriting them (R40, R91). -/

namespace Sys2Proof.Machine

/-- The state with another PSW.ie and other turns to come. -/
def State.retag (s : State) (ie : Bool) (script : List Turn) : State := { s with ie := ie, script := script }

/-- A state's own flag and script are no change. -/
theorem State.retag_self (s : State) : s.retag s.ie s.script = s := rfl

/-- The action reads neither PSW.ie nor the script: it answers alike whatever they are, keeps the script, and does to
the flag what `f` says, whatever it was. -/
def IgnoresTags (act : State → StepResult) : Prop :=
  ∀ s : State, ∃ f : Bool → Bool, ∀ ie script,
    act (s.retag ie script) = andThen (act s) fun t => .next (t.retag (f ie) script)

/-- An action that commutes with overwriting flag and script ignores them. -/
theorem ignoresTags_of_commutes {act : State → State}
    (h : ∀ s ie script, act (s.retag ie script) = (act s).retag ie script) : IgnoresTags fun s => .next (act s) :=
  fun s => ⟨id, fun ie script => congrArg _ (h s ie script)⟩

/-- Two actions that ignore flag and script do so one after the other. -/
theorem IgnoresTags.andThen {act act' : State → StepResult} (h : IgnoresTags act) (h' : IgnoresTags act') :
    IgnoresTags fun s => andThen (act s) act' := by
  intro s
  obtain ⟨f, hf⟩ := h s
  cases hact : act s with
  | next m =>
    obtain ⟨g, hg⟩ := h' m
    refine ⟨g ∘ f, fun ie script => ?_⟩
    simp only [hf, hact, andThen_next, hg]
    rfl
  | fault e => exact ⟨id, fun ie script => by simp only [hf, hact]; rfl⟩
  | refused e => exact ⟨id, fun ie script => by simp only [hf, hact]; rfl⟩

/-- An action that ignores flag and script does the same under another script. -/
theorem IgnoresTags.withScript {act : State → StepResult} (h : IgnoresTags act) {s t : State}
    (hact : act s = .next t) (script : List Turn) :
    act { s with script := script } = .next { t with script := script } := by
  obtain ⟨f, hf⟩ := h s
  have hself := hf s.ie s.script
  rw [State.retag_self, hact, andThen_next] at hself
  injection hself with hself
  have hie : f s.ie = t.ie := congrArg State.ie hself.symm
  have hmoved := hf s.ie script
  rw [hact, andThen_next, hie] at hmoved
  exact hmoved

/-- An action that ignores flag and script does the same, the flag aside, under another flag. -/
theorem IgnoresTags.withIe {act : State → StepResult} (h : IgnoresTags act) {s t : State} (hact : act s = .next t)
    (ie : Bool) : ∃ u, act { s with ie := ie } = .next u ∧ { u with ie := t.ie } = t := by
  obtain ⟨f, hf⟩ := h s
  have hself := hf s.ie s.script
  rw [State.retag_self, hact, andThen_next] at hself
  injection hself with hself
  have hscript : t.script = (t.retag (f s.ie) s.script).script := congrArg _ hself
  have hmoved := hf ie s.script
  rw [hact, andThen_next] at hmoved
  refine ⟨t.retag (f ie) s.script, hmoved, ?_⟩
  rw [show s.script = t.script from hscript.symm]
  rfl

/-- Resolve reads neither flag nor script. -/
theorem resolve_retag (s : State) (ie : Bool) (script : List Turn) (op : Operand) :
    (s.retag ie script).resolve op = s.resolve op := by
  cases op <;> rfl

/-- Target reads neither flag nor script. -/
theorem target_retag (s : State) (ie : Bool) (script : List Turn) (op : Operand) :
    (s.retag ie script).target op = s.target op := by
  cases op <;> rfl

/-- A class V rule that commutes with overwriting flag and script ignores them. -/
theorem ignoresTags_withValue {op : Operand} {rule : State → Int → State}
    (h : ∀ s ie script v, rule (s.retag ie script) v = (rule s v).retag ie script) :
    IgnoresTags fun s => s.withValue op (rule s) := by
  refine fun s => ⟨id, fun ie script => ?_⟩
  cases hop : s.resolve op with
  | ok v =>
    simp only [withValue_ok hop, withValue_ok ((resolve_retag s ie script op).trans hop), h, andThen_next]
    rfl
  | error c =>
    simp only [withValue_error hop, withValue_error ((resolve_retag s ie script op).trans hop), andThen_next]
    rfl

/-- A class S rule that commutes with overwriting flag and script ignores them. -/
theorem ignoresTags_withTarget {op : Operand} {rule : State → Int → State}
    (h : ∀ s ie script a, rule (s.retag ie script) a = (rule s a).retag ie script) :
    IgnoresTags fun s => s.withTarget op (rule s) := by
  refine fun s => ⟨id, fun ie script => ?_⟩
  cases hop : s.target op with
  | ok a =>
    simp only [withTarget_ok hop, withTarget_ok ((target_retag s ie script op).trans hop), h, andThen_next]
    rfl
  | error c =>
    simp only [withTarget_error hop, withTarget_error ((target_retag s ie script op).trans hop), andThen_next]
    rfl

/-- The result check reads neither flag nor script. -/
theorem arithCommit_retag (s : State) (ie : Bool) (script : List Turn) (r : Int) :
    (s.retag ie script).arithCommit r = (s.arithCommit r).retag ie script := by
  rcases arithCommit_cases s r with ⟨hr, e⟩ | ⟨hr, e⟩ | ⟨hr, e⟩ <;> rw [e]
  exacts [arithCommit_inWord hr _, arithCommit_above hr _, arithCommit_below hr _]

/-- A conditional jump commutes with overwriting flag and script when its condition does not read them. -/
theorem jumpIf_retag (s : State) (ie : Bool) (script : List Turn) (taken : Bool) (n : Nat) :
    (s.retag ie script).jumpIf taken n = (s.jumpIf taken n).retag ie script := by
  cases taken <;> rfl

/-- No instruction reads PSW.ie or the script; HAB and DHAB overwrite the flag. -/
theorem ignoresTags_exec (i : Instr) : IgnoresTags (exec i) := by
  cases i with
  | add op => exact ignoresTags_withValue fun s ie script v => arithCommit_retag s ie script _
  | sub op => exact ignoresTags_withValue fun s ie script v => arithCommit_retag s ie script _
  | mul op => exact ignoresTags_withValue fun s ie script v => arithCommit_retag s ie script _
  | div op =>
    refine ignoresTags_withValue fun s ie script v => ?_
    by_cases hv : v = 0
    · rw [if_pos hv, if_pos hv]
      rfl
    · rw [if_neg hv, if_neg hv]
      exact arithCommit_retag s ie script _
  | load op | loadrx op | comp op => exact ignoresTags_withValue fun s ie script v => rfl
  | store op | strrx op => exact ignoresTags_withTarget fun s ie script a => rfl
  | jmpe n | jmpne n | jmplt n | jmplgt n =>
    exact ignoresTags_of_commutes fun s ie script => jumpIf_retag s ie script _ n
  | psh =>
    refine fun s => ⟨id, fun ie script => ?_⟩
    rcases exec_psh_cases s with ⟨a, ha, e⟩ | ⟨c, hc, e⟩ <;> rw [e, andThen_next]
    exacts [exec_psh_of_ok (s := s.retag ie script) ha, exec_psh_of_error (s := s.retag ie script) hc]
  | pop =>
    refine fun s => ⟨id, fun ie script => ?_⟩
    rcases exec_pop_cases s with ⟨a, ha, e⟩ | ⟨c, hc, e⟩ <;> rw [e, andThen_next]
    exacts [exec_pop_of_ok (s := s.retag ie script) ha, exec_pop_of_error (s := s.retag ie script) hc]
  | retrn =>
    refine fun s => ⟨id, fun ie script => ?_⟩
    rcases exec_retrn_cases s with ⟨a, ha, e⟩ | ⟨c, hc, e⟩ <;> rw [e, andThen_next]
    exacts [exec_retrn_of_ok (s := s.retag ie script) ha, exec_retrn_of_error (s := s.retag ie script) hc]
  | chmod n =>
    refine fun s => ⟨id, fun ie script => ?_⟩
    cases hmode : s.mode <;> rcases n with _ | _ | n <;> simp [exec, execChmod, State.retag, State.raise, hmode]
  | loadsp =>
    refine fun s => ⟨id, fun ie script => ?_⟩
    rcases execLoadsp_cases s with ⟨hsp, e⟩ | ⟨hsp, e⟩ <;> rw [exec, exec, e, andThen_next]
    exacts [if_pos hsp, if_neg hsp]
  | hab => exact fun s => ⟨fun _ => true, fun ie script => rfl⟩
  | dhab => exact fun s => ⟨fun _ => false, fun ie script => rfl⟩
  | j n | tti n | sdmap n | sdmac n | sdmas n | sdmaio n | sdmam n =>
    exact ignoresTags_of_commutes fun s ie script => rfl
  | svc | loadrb | strrb | loadrl | strrl | strsp | sdmaon => exact ignoresTags_of_commutes fun s ie script => rfl

/-- The fetch reads neither flag nor script. -/
theorem fetchAction_retag (s : State) (ie : Bool) (script : List Turn) :
    (s.retag ie script).fetchAction = s.fetchAction.retag ie script := by
  rcases fetchAction_cases s with ⟨hvalid, e⟩ | ⟨hinvalid, e⟩ <;> rw [e]
  exacts [fetchAction_of_valid (s := s.retag ie script) hvalid,
    fetchAction_of_not_valid (s := s.retag ie script) hinvalid]

/-- The check point reads neither flag nor script. -/
theorem checkPoint_retag (s : State) (ie : Bool) (script : List Turn) :
    (s.retag ie script).checkPoint = s.checkPoint.retag ie script := by
  rcases checkPoint_cases s with ⟨hidle, e⟩ | ⟨hpending, e⟩ <;> rw [e]
  exacts [checkPoint_of_not_pending (s := s.retag ie script) hidle,
    checkPoint_of_pending (s := s.retag ie script) hpending]

/-- The execute action ignores flag and script. -/
theorem ignoresTags_executeAction : IgnoresTags State.executeAction := by
  intro s
  cases hdecode : decode s.ir with
  | ok i =>
    have hbody : IgnoresTags fun m => andThen (exec i m) fun t => .next { t with cpuPhase := .check } :=
      (ignoresTags_exec i).andThen (ignoresTags_of_commutes (act := fun t => { t with cpuPhase := .check })
        fun _ _ _ => rfl)
    obtain ⟨f, hf⟩ := hbody (s.emit (.executed s.mar s.ir))
    refine ⟨f, fun ie script => ?_⟩
    rw [executeAction_of_ok hdecode, executeAction_of_ok (s := s.retag ie script) hdecode]
    exact hf ie script
  | error e =>
    refine ⟨id, fun ie script => ?_⟩
    rw [executeAction_of_error hdecode, executeAction_of_error (s := s.retag ie script) hdecode]
    rfl

/-- The CPU's action ignores flag and script. -/
theorem ignoresTags_cpuAction : IgnoresTags State.cpuAction := by
  intro s
  cases hphase : s.cpuPhase with
  | stopped =>
    refine ⟨id, fun ie script => ?_⟩
    rw [cpuAction_of_stopped hphase, cpuAction_of_stopped (s := s.retag ie script) hphase]
    rfl
  | fetch =>
    refine ⟨id, fun ie script => ?_⟩
    cases hrunning : s.running with
    | true =>
      rw [cpuAction_of_fetch hphase hrunning, cpuAction_of_fetch (s := s.retag ie script) hphase hrunning,
        fetchAction_retag]
      rfl
    | false =>
      rw [cpuAction_of_fetch_clear hphase hrunning, cpuAction_of_fetch_clear (s := s.retag ie script) hphase hrunning]
      rfl
  | execute =>
    obtain ⟨f, hf⟩ := ignoresTags_executeAction s
    refine ⟨f, fun ie script => ?_⟩
    rw [cpuAction_of_execute hphase, cpuAction_of_execute (s := s.retag ie script) hphase, hf]
  | check =>
    refine ⟨id, fun ie script => ?_⟩
    rw [cpuAction_of_check hphase, cpuAction_of_check (s := s.retag ie script) hphase, checkPoint_retag]
    rfl

end Sys2Proof.Machine
end

section
/-! SUPPORT. The CPU's whole cycle is a run of its atomic actions (log entry 4). -/

namespace Sys2Proof.Machine

/-- So many atomic actions of the CPU with no other agent's between them. -/
def cpuActions : Nat → State → StepResult
  | 0, s => .next s
  | k + 1, s => andThen s.cpuAction (cpuActions k)

/-- From every phase what is left of a cycle is at most two actions. -/
theorem finishCycle_eq_cpuActions (s : State) : ∃ k, k ≤ 2 ∧ s.finishCycle = cpuActions k s := by
  cases hphase : s.cpuPhase with
  | stopped => exact ⟨0, by omega, by simp [State.finishCycle, hphase, cpuActions]⟩
  | fetch => exact ⟨0, by omega, by simp [State.finishCycle, hphase, cpuActions]⟩
  | execute =>
    obtain ⟨t, ht⟩ := executeAction_next s
    refine ⟨2, by omega, ?_⟩
    rw [finishCycle_of_execute hphase, cpuActions, cpuAction_of_execute hphase, ht, andThen_next, andThen_next,
      cpuActions, cpuAction_of_check (executeAction_cpuPhase ht)]
    rfl
  | check => exact ⟨1, by omega, by simp [State.finishCycle, hphase, cpuActions, cpuAction_of_check hphase]⟩

/-- A cycle is one to three actions of the CPU. -/
theorem cpuCycle_eq_cpuActions (s : State) : ∃ k, 1 ≤ k ∧ k ≤ 3 ∧ s.cpuCycle = cpuActions k s := by
  obtain ⟨m, hm⟩ := cpuAction_next s
  obtain ⟨k, hk, hfinish⟩ := finishCycle_eq_cpuActions m
  refine ⟨k + 1, by omega, by omega, ?_⟩
  rw [State.cpuCycle, cpuActions, hm, andThen_next, andThen_next, hfinish]

/-- A machine's run whose first step answers a next state goes on from there. -/
theorem core_run_succ {M : Host.Core} {s t : M.State} (h : M.step s = .next t) (k : Nat) :
    M.run (k + 1) s = M.run k t := by
  rw [Host.Core.run, h]

/-- The same of this machine, by its own step. -/
theorem run_succ_of_step {s t : State} (h : step s = .next t) (k : Nat) :
    Host.Core.run Sys2Proof.core (k + 1) s = Host.Core.run Sys2Proof.core k t :=
  core_run_succ (M := Sys2Proof.core) (s := s) (t := t) h k

/-- A run over a script of CPU turns is so many actions of the CPU. -/
theorem run_cpu_turns (k : Nat) (rest : List Turn) :
    ∀ s : State, Host.Core.run Sys2Proof.core k { s with script := List.replicate k (.unit .cpu) ++ rest } =
      cpuActions k { s with script := rest } := by
  induction k with
  | zero => intro s; rfl
  | succ k ih =>
    intro s
    obtain ⟨t, ht⟩ := cpuAction_next s
    have hstep : step { s with script := List.replicate (k + 1) (.unit .cpu) ++ rest } =
        .next { t with script := List.replicate k (.unit .cpu) ++ rest } :=
      (step_of_cpu_turn rfl).trans (ignoresTags_cpuAction.withScript ht _)
    refine (run_succ_of_step hstep k).trans ((ih t).trans ?_)
    rw [cpuActions, ignoresTags_cpuAction.withScript ht, andThen_next]

/-- Settles O34: the cycle's one to three actions are the run of as many CPU turns. -/
theorem cycleTurnIsARunOfCpuActions : Obligations.CycleTurnIsARunOfCpuActions := by
  intro s rest hscript
  obtain ⟨k, hpos, hle, hcycle⟩ := cpuCycle_eq_cpuActions { s with script := rest }
  refine ⟨k, hpos, hle, ?_⟩
  rw [step_of_cpuCycle_turn hscript, hcycle]
  exact (run_cpu_turns k rest s).symm

end Sys2Proof.Machine
end

section
/-! SUPPORT. PSW.ie gates no turn of any agent (R40, R305). -/

namespace Sys2Proof.Machine

/-- What is left of a cycle ignores flag and script. -/
theorem ignoresTags_finishCycle : IgnoresTags State.finishCycle := by
  intro s
  cases hphase : s.cpuPhase with
  | stopped => exact ⟨id, fun ie script => by simp [State.finishCycle, State.retag, hphase]⟩
  | fetch => exact ⟨id, fun ie script => by simp [State.finishCycle, State.retag, hphase]⟩
  | execute =>
    obtain ⟨f, hf⟩ := (ignoresTags_executeAction.andThen (ignoresTags_of_commutes checkPoint_retag)) s
    refine ⟨f, fun ie script => ?_⟩
    rw [finishCycle_of_execute hphase, finishCycle_of_execute (s := s.retag ie script) hphase]
    exact hf ie script
  | check =>
    refine ⟨id, fun ie script => ?_⟩
    rw [State.finishCycle, State.finishCycle, hphase, show (s.retag ie script).cpuPhase = .check from hphase,
      checkPoint_retag]
    rfl

/-- The timer's action reads neither flag nor script. -/
theorem timerAction_retag (s : State) (ie : Bool) (script : List Turn) :
    (s.retag ie script).timerAction = s.timerAction.retag ie script := by
  cases h : s.timerPhase with
  | stopped => rw [timerAction_of_stopped h, timerAction_of_stopped (s := s.retag ie script) h]
  | checking =>
    rw [timerAction_of_checking h, timerAction_of_checking (s := s.retag ie script) h,
      apply_ite (State.retag · ie script), apply_ite (State.retag · ie script)]
    rfl
  | sleeping =>
    rw [timerAction_of_sleeping h, timerAction_of_sleeping (s := s.retag ie script) h]
    rfl

/-- The transfer reads neither flag nor script. -/
theorem dmaTransfer_retag (s : State) (ie : Bool) (script : List Turn) :
    (s.retag ie script).dmaTransfer = s.dmaTransfer.retag ie script := by
  by_cases hlegal : s.dma.Legal
  · rcases direction_of_legal hlegal with hdirection | hdirection
    · rw [dmaTransfer_to_memory hlegal hdirection, dmaTransfer_to_memory (s := s.retag ie script) hlegal hdirection]
      rfl
    · rw [dmaTransfer_to_disk hlegal hdirection, dmaTransfer_to_disk (s := s.retag ie script) hlegal hdirection]
      rfl
  · rw [dmaTransfer_of_illegal hlegal, dmaTransfer_of_illegal (s := s.retag ie script) hlegal]
    rfl

/-- The DMA unit's action reads neither flag nor script. -/
theorem dmaAction_retag (s : State) (ie : Bool) (script : List Turn) :
    (s.retag ie script).dmaAction = s.dmaAction.retag ie script := by
  cases h : s.dmaPhase with
  | stopped => rw [dmaAction_of_stopped h, dmaAction_of_stopped (s := s.retag ie script) h]
  | idle =>
    rw [dmaAction_of_idle h, dmaAction_of_idle (s := s.retag ie script) h,
      apply_ite (State.retag · ie script), apply_ite (State.retag · ie script)]
    rfl
  | busy => rw [dmaAction_of_busy h, dmaAction_of_busy (s := s.retag ie script) h, dmaTransfer_retag]

/-- The timer's exit step reads neither flag nor script. -/
theorem timerExit_retag (s : State) (ie : Bool) (script : List Turn) :
    (s.retag ie script).timerExit = s.timerExit.retag ie script := by
  rw [State.timerExit, State.timerExit, apply_ite (State.retag · ie script)]
  rfl

/-- The DMA unit's exit step reads neither flag nor script. -/
theorem dmaExit_retag (s : State) (ie : Bool) (script : List Turn) :
    (s.retag ie script).dmaExit = s.dmaExit.retag ie script := by
  rw [State.dmaExit, State.dmaExit, apply_ite (State.retag · ie script)]
  rfl

/-- A host action ignores flag and script. -/
theorem ignoresTags_hostAction (a : HostAction) : IgnoresTags (State.hostAction · a) := by
  refine fun s => ⟨id, fun ie script => ?_⟩
  cases a with
  | load words loadAddress =>
    simp only [State.hostAction]
    by_cases hduty : LoadDuty s words loadAddress
    · exact (if_pos hduty).trans (by rw [if_pos hduty]; rfl)
    · exact (if_neg hduty).trans (by rw [if_neg hduty]; rfl)
  | setMode mode =>
    simp only [State.hostAction]
    by_cases hstopped : s.AllStopped
    · exact (if_pos hstopped).trans (by rw [if_pos hstopped]; rfl)
    · exact (if_neg hstopped).trans (by rw [if_neg hstopped]; rfl)
  | dispatch base limit off =>
    simp only [State.hostAction]
    by_cases hduty : DispatchDuty s base limit
    · exact (if_pos hduty).trans (by rw [if_pos hduty]; rfl)
    · exact (if_neg hduty).trans (by rw [if_neg hduty]; rfl)

/-- Every turn ignores flag and script. -/
theorem ignoresTags_takeTurn (turn : Turn) : IgnoresTags (State.takeTurn · turn) := by
  match turn with
  | .unit .cpuCycle => exact ignoresTags_cpuAction.andThen ignoresTags_finishCycle
  | .unit .cpu => exact ignoresTags_cpuAction
  | .unit .timer => exact ignoresTags_of_commutes timerAction_retag
  | .unit .timerExit => exact ignoresTags_of_commutes timerExit_retag
  | .unit .dma => exact ignoresTags_of_commutes dmaAction_retag
  | .unit .dmaExit => exact ignoresTags_of_commutes dmaExit_retag
  | .host a => exact ignoresTags_hostAction a

/-- Settles O59: every turn ignores the flag. -/
theorem interruptFlagGatesNothing : Obligations.InterruptFlagGatesNothing :=
  fun _ _ ie turn h => (ignoresTags_takeTurn turn).withIe h ie

end Sys2Proof.Machine
end

section
/-! SUPPORT. What is kept by every unit's actions is kept by every step, up to the host's actions (R90, R91). -/

namespace Sys2Proof.Machine

/-- A predicate that each atomic action of the CPU keeps. -/
structure KeptByCpu (P : State → Prop) : Prop where
  stop : ∀ s : State, P s → s.cpuPhase = .fetch → s.running = false → P { s with cpuPhase := .stopped }
  fetched : ∀ s : State, P s → s.cpuPhase = .fetch → P s.fetched
  fetchFailed : ∀ s : State, P s → P s.fetchFailed
  executed : ∀ (s : State) i m, P s → s.cpuPhase = .execute → decode s.ir = .ok i →
    exec i (s.emit (.executed s.mar s.ir)) = .next m → P { m with cpuPhase := .check }
  illegal : ∀ s : State, P s →
    P { (s.emit (.executed s.mar s.ir)).raise .illegalInstruction with cpuPhase := .check }
  checkPoint : ∀ s : State, P s → P s.checkPoint

/-- A predicate that the schedule does not enter and that each atomic action of each unit keeps. -/
structure KeptByUnits (P : State → Prop) : Prop extends KeptByCpu P where
  schedule : ∀ (s : State) script draws, P s → P { s with script := script, draws := draws }
  timer : ∀ s : State, P s → P s.timerAction
  timerExit : ∀ s : State, P s → P s.timerExit
  dma : ∀ s : State, P s → P s.dmaAction
  dmaExit : ∀ s : State, P s → P s.dmaExit

/-- Taking the next turn off the schedule changes the schedule alone. -/
theorem consumeTurn_eq (s : State) : ∃ script draws, s.consumeTurn = { s with script := script, draws := draws } := by
  unfold State.consumeTurn
  split
  exacts [⟨_, s.draws, rfl⟩, ⟨s.script, _, rfl⟩]

section
variable {P : State → Prop}

/-- What each of the CPU's actions keeps, the action of the phase keeps. -/
theorem KeptByCpu.cpuAction (h : KeptByCpu P) {s t : State} (hs : P s) (hact : s.cpuAction = .next t) : P t := by
  cases hphase : s.cpuPhase with
  | stopped =>
    rw [cpuAction_of_stopped hphase] at hact
    cases hact
    exact hs
  | fetch =>
    cases hrunning : s.running with
    | true =>
      rw [cpuAction_of_fetch hphase hrunning] at hact
      cases hact
      by_cases hvalid : s.Valid s.pc
      · rw [fetchAction_of_valid hvalid]
        exact h.fetched s hs hphase
      · rw [fetchAction_of_not_valid hvalid]
        exact h.fetchFailed s hs
    | false =>
      rw [cpuAction_of_fetch_clear hphase hrunning] at hact
      cases hact
      exact h.stop s hs hphase hrunning
  | execute =>
    rw [cpuAction_of_execute hphase] at hact
    rcases executeAction_cases hact with ⟨i, m, hdecode, hexec, rfl⟩ | ⟨e, -, rfl⟩
    exacts [h.executed s i m hs hphase hdecode hexec, h.illegal s hs]
  | check =>
    rw [cpuAction_of_check hphase] at hact
    cases hact
    exact h.checkPoint s hs

/-- What the CPU keeps, any number of its actions keeps. -/
theorem KeptByCpu.cpuActions (h : KeptByCpu P) (k : Nat) :
    ∀ {s t : State}, P s → cpuActions k s = .next t → P t := by
  induction k with
  | zero => rintro s t hs ⟨⟩; exact hs
  | succ k ih =>
    intro s t hs hact
    obtain ⟨m, hm, hrest⟩ := andThen_eq_next hact
    exact ih (h.cpuAction hs hm) hrest

/-- What the CPU keeps, its turns keep. -/
theorem KeptByCpu.unitAction (h : KeptByCpu P) {s t : State} {a : UnitAction} (ha : unitOf a = .cpu) (hs : P s)
    (hact : s.unitAction a = .next t) : P t := by
  cases a with
  | cpuCycle =>
    obtain ⟨k, -, -, hcycle⟩ := cpuCycle_eq_cpuActions s
    exact h.cpuActions k hs (hcycle.symm.trans hact)
  | cpu => exact h.cpuAction hs hact
  | timer | timerExit | dma | dmaExit => cases ha

/-- What the units keep, every unit's turn keeps. -/
theorem KeptByUnits.unitAction (h : KeptByUnits P) {s t : State} {a : UnitAction} (hs : P s)
    (hact : s.unitAction a = .next t) : P t := by
  cases a with
  | cpuCycle | cpu => exact h.toKeptByCpu.unitAction rfl hs hact
  | timer => cases hact; exact h.timer s hs
  | timerExit => cases hact; exact h.timerExit s hs
  | dma => cases hact; exact h.dma s hs
  | dmaExit => cases hact; exact h.dmaExit s hs

/-- What the units keep and the host's action, if it is the host's turn, keeps, the step keeps. -/
theorem KeptByUnits.step (h : KeptByUnits P) {s t : State}
    (hhost : ∀ u a, P u → s.nextTurn = .host a → u.hostAction a = .next t → P t) (hs : P s)
    (hstep : step s = .next t) : P t := by
  have hconsumed : P s.consumeTurn := by
    obtain ⟨script, draws, e⟩ := consumeTurn_eq s
    rw [e]
    exact h.schedule s script draws hs
  rw [step_eq] at hstep
  cases hturn : s.nextTurn with
  | unit a =>
    rw [hturn] at hstep
    exact h.unitAction hconsumed hstep
  | host a =>
    rw [hturn] at hstep
    exact hhost _ a hconsumed hturn hstep

end

/-- A decoded instruction is well formed (R110). -/
theorem wellFormed_of_decode {w : Int} {i : Instr} (h : decode w = .ok i) : i.wellFormed = true := by
  cases w with
  | ofNat k =>
    obtain ⟨hwellFormed, -⟩ := decodeKeepsEveryUsedField k i h
    exact hwellFormed
  | negSucc k => cases h

/-- The predicate speaks of none of the fields that fetches, raises, deliveries and phase changes write: PC, MAR,
Running, the slot, the phases, the history and the schedule. -/
def BlindToControl (P : State → Prop) : Prop :=
  ∀ (s : State) pc mar running slot cpuPhase timerPhase dmaPhase history script draws, P s →
    P { s with
      pc := pc
      mar := mar
      running := running
      slot := slot
      cpuPhase := cpuPhase
      timerPhase := timerPhase
      dmaPhase := dmaPhase
      history := history
      script := script
      draws := draws }

/-- A predicate blind to control is kept by every unit if the fetched word, every instruction and the transfer keep
it. -/
theorem keptByUnits_of_blindToControl {P : State → Prop} (hblind : BlindToControl P)
    (hfetched : ∀ s : State, P s → P s.fetched)
    (hexec : ∀ {i : Instr} {s t : State}, P s → i.wellFormed = true → exec i s = .next t → P t)
    (htransfer : ∀ s : State, P s → P s.dmaTransfer) : KeptByUnits P where
  schedule s _ _ hs := hblind s _ _ _ _ _ _ _ _ _ _ hs
  stop s hs _ _ := hblind s _ _ _ _ _ _ _ _ _ _ hs
  fetched s hs _ := hfetched s hs
  fetchFailed s hs := hblind s _ _ _ _ _ _ _ _ _ _ hs
  executed s i m hs _ hdecode h :=
    have hemitted : P (s.emit (.executed s.mar s.ir)) := hblind s _ _ _ _ _ _ _ _ _ _ hs
    hblind m _ _ _ _ _ _ _ _ _ _ (hexec hemitted (wellFormed_of_decode hdecode) h)
  illegal s hs := hblind s _ _ _ _ _ _ _ _ _ _ hs
  checkPoint s hs := by
    rcases checkPoint_cases s with ⟨-, e⟩ | ⟨-, e⟩ <;> rw [e] <;> exact hblind s _ _ _ _ _ _ _ _ _ _ hs
  timer s hs := by
    rcases timerAction_cases s with e | ⟨-, -, e⟩ | ⟨-, -, e⟩ | ⟨-, e⟩ <;> rw [e] <;>
      exact hblind s _ _ _ _ _ _ _ _ _ _ hs
  timerExit s hs := by
    rcases timerExit_cases s with e | ⟨-, -, e⟩ <;> rw [e] <;> exact hblind s _ _ _ _ _ _ _ _ _ _ hs
  dma s hs := by
    rcases dmaAction_cases s with e | ⟨-, -, e⟩ | ⟨-, -, e⟩ | ⟨-, e⟩ <;> rw [e]
    exacts [hs, hblind s _ _ _ _ _ _ _ _ _ _ hs, hblind s _ _ _ _ _ _ _ _ _ _ hs, htransfer s hs]
  dmaExit s hs := by
    rcases dmaExit_cases s with e | ⟨-, -, e⟩ <;> rw [e] <;> exact hblind s _ _ _ _ _ _ _ _ _ _ hs

end Sys2Proof.Machine
end

section
/-! SUPPORT. The stores stay canonical and the Word-valued places hold Words (R52, R53, R32, R44). -/

namespace Sys2Proof.Machine

/-- An instruction keeps the stores canonical: its one store lies in memory. -/
theorem exec_canonical {i : Instr} {s t : State} (hs : s.Canonical) (h : exec i s = .next t) : t.Canonical := by
  obtain ⟨hmem, hdisk⟩ := hs
  refine ⟨?_, by rw [(exec_frame h).disk]; exact hdisk⟩
  rcases exec_mem h with ⟨-, e⟩ | ⟨a, v, hstore, e⟩ <;> rw [e]
  · exact hmem
  · obtain ⟨hlow, hhigh⟩ := storeOf_inMachine hstore
    exact Memory.wf_write _ _ _ _ hmem (by omega)

/-- A transfer keeps the stores canonical: legal registers name a word and a sector. -/
theorem dmaTransfer_canonical {s : State} (hs : s.Canonical) : s.dmaTransfer.Canonical := by
  obtain ⟨hmem, hdisk⟩ := hs
  obtain ⟨_, _, _, e, hmoved⟩ := dmaTransfer_cases s
  rw [e]
  rcases hmoved with ⟨rfl, rfl⟩ | ⟨hlegal, rfl, rfl⟩ | ⟨⟨-, -, -, haddress, -⟩, rfl, rfl⟩
  exacts [⟨hmem, hdisk⟩, ⟨hmem, Memory.wf_write _ _ _ _ hdisk (place_lt hlegal)⟩,
    ⟨Memory.wf_write _ _ _ _ hmem haddress, hdisk⟩]

/-- Every unit keeps the stores canonical. -/
theorem canonical_keptByUnits : KeptByUnits State.Canonical :=
  keptByUnits_of_blindToControl (fun _ _ _ _ _ _ _ _ _ _ _ hs => hs) (fun _ hs => hs)
    (fun hs _ h => exec_canonical hs h) fun _ hs => dmaTransfer_canonical hs

/-- The host keeps the stores canonical: a load with its duties kept stays in memory. -/
theorem hostAction_canonical {s t : State} {a : HostAction} (hs : s.Canonical) (h : s.hostAction a = .next t) :
    t.Canonical := by
  obtain ⟨hmem, hdisk⟩ := hs
  obtain ⟨-, ⟨words, loadAddress, ⟨-, -, hlow, hfits⟩, rfl⟩ | ⟨_, -, rfl⟩ | ⟨_, _, _, -, rfl⟩⟩ := hostAction_cases h
  exacts [⟨wf_loadWords _ words s.mem _ hmem (by omega), hdisk⟩, ⟨hmem, hdisk⟩, ⟨hmem, hdisk⟩]

/-- Settles O50: every unit's actions and the host's keep the stores canonical. -/
theorem stepKeepsStoresCanonical : Obligations.StepKeepsStoresCanonical :=
  fun _ _ hs hstep => canonical_keptByUnits.step (fun _ _ hu _ => hostAction_canonical hu) hs hstep

/-- The value of a well-formed operand is a Word when memory holds Words. -/
theorem inWord_of_resolve {s : State} {op : Operand} {v : Int} (hs : s.WordsOnly) (hop : op.wellFormed = true)
    (h : s.resolve op = .ok v) : InWord v := by
  obtain ⟨-, -, -, -, -, -, hmem, -⟩ := hs
  rcases resolve_ok h with ⟨n, rfl, rfl⟩ | ⟨a, -, rfl⟩
  · have hn := (fieldWellFormed_iff n).mp hop
    exact (inWord_iff _).mpr (by omega)
  · exact inWord_read hmem _

section
variable {s : State}

/-- A Word in AC keeps the invariant. -/
theorem State.WordsOnly.with_ac (hs : s.WordsOnly) {v : Int} (hv : InWord v) : { s with ac := v }.WordsOnly := by
  obtain ⟨-, hrest⟩ := hs
  exact ⟨hv, hrest⟩

/-- A Word in RX keeps the invariant. -/
theorem State.WordsOnly.with_rx (hs : s.WordsOnly) {v : Int} (hv : InWord v) : { s with rx := v }.WordsOnly := by
  obtain ⟨hac, -, hrest⟩ := hs
  exact ⟨hac, hv, hrest⟩

/-- Words in RB and RL keep the invariant. -/
theorem State.WordsOnly.with_region (hs : s.WordsOnly) {base limit : Int} (hbase : InWord base)
    (hlimit : InWord limit) : { s with rb := base, rl := limit }.WordsOnly := by
  obtain ⟨hac, hrx, -, -, hrest⟩ := hs
  exact ⟨hac, hrx, hbase, hlimit, hrest⟩

/-- A Word in MDR and IR keeps the invariant. -/
theorem State.WordsOnly.with_ir (hs : s.WordsOnly) {v : Int} (hv : InWord v) :
    { s with mdr := v, ir := v }.WordsOnly := by
  obtain ⟨hac, hrx, hrb, hrl, -, -, hrest⟩ := hs
  exact ⟨hac, hrx, hrb, hrl, hv, hv, hrest⟩

/-- Memory and disk of Words keep the invariant. -/
theorem State.WordsOnly.with_stores (hs : s.WordsOnly) {mem disk : Memory} (hmem : ∀ c ∈ mem, InWord c.2)
    (hdisk : ∀ c ∈ disk, InWord c.2) : { s with mem := mem, disk := disk }.WordsOnly := by
  obtain ⟨hac, hrx, hrb, hrl, hmdr, hir, -, -⟩ := hs
  exact ⟨hac, hrx, hrb, hrl, hmdr, hir, hmem, hdisk⟩

/-- A Word written to memory keeps the invariant. -/
theorem State.WordsOnly.write (hs : s.WordsOnly) (a : Nat) {v : Int} (hv : InWord v) :
    { s with mem := s.mem.write a v }.WordsOnly := by
  obtain ⟨-, -, -, -, -, -, hmem, hdisk⟩ := id hs
  exact hs.with_stores (inWord_write hmem a hv) hdisk

/-- Every word read is a Word. -/
theorem State.WordsOnly.read (hs : s.WordsOnly) (a : Nat) : InWord (s.mem.read a) := by
  obtain ⟨-, -, -, -, -, -, hmem, -⟩ := hs
  exact inWord_read hmem a

end

/-- A well-formed instruction keeps Words in the Word-valued places, RB and RL. -/
theorem exec_wordsOnly {i : Instr} {s t : State} (hs : s.WordsOnly) (hi : i.wellFormed = true)
    (h : exec i s = .next t) : t.WordsOnly := by
  obtain ⟨hac, hrx, hrb, hrl, -⟩ := id hs
  cases i with
  | add op | sub op | mul op | div op =>
    rcases exec_arith_cases (op := op) (by simp) h with ⟨r, hr, rfl⟩ | ⟨c, -, rfl⟩ | ⟨c, -, rfl⟩
    exacts [hs.with_ac hr, hs, hs]
  | load op =>
    rcases withValue_cases h with ⟨v, hv, rfl⟩ | ⟨c, -, rfl⟩
    exacts [hs.with_ac (inWord_of_resolve hs hi hv), hs]
  | loadrx op =>
    rcases withValue_cases h with ⟨v, hv, rfl⟩ | ⟨c, -, rfl⟩
    exacts [hs.with_rx (inWord_of_resolve hs hi hv), hs]
  | store op =>
    rcases withTarget_cases h with ⟨a, -, rfl⟩ | ⟨c, -, rfl⟩
    exacts [hs.write _ hac, hs]
  | strrx op =>
    rcases withTarget_cases h with ⟨a, -, rfl⟩ | ⟨c, -, rfl⟩
    exacts [hs.write _ hrx, hs]
  | psh =>
    rcases exec_psh_cases s with ⟨a, -, e⟩ | ⟨c, -, e⟩ <;> rw [e] at h <;> cases h
    exacts [hs.write _ hac, hs]
  | pop =>
    rcases exec_pop_cases s with ⟨a, -, e⟩ | ⟨c, -, e⟩ <;> rw [e] at h <;> cases h
    exacts [hs.with_ac (hs.read _), hs]
  | loadrb => cases h; exact hs.with_ac hrb
  | loadrl => cases h; exact hs.with_ac hrl
  | strrb => cases h; exact hs.with_region hac hrl
  | strrl => cases h; exact hs.with_region hrb hac
  | loadsp =>
    rcases execLoadsp_cases s with ⟨hsp, e⟩ | ⟨-, e⟩ <;> cases e.symm.trans h
    exacts [hs.with_ac hsp, hs.with_ac (freeWord_inWord _)]
  | _ =>
    rw [show t = _ from exec_changesOnly h]
    exact hs

/-- A transfer moves a Word. -/
theorem dmaTransfer_wordsOnly {s : State} (hs : s.WordsOnly) : s.dmaTransfer.WordsOnly := by
  obtain ⟨-, -, -, -, -, -, hmem, hdisk⟩ := id hs
  obtain ⟨_, _, _, e, hmoved⟩ := dmaTransfer_cases s
  rw [e]
  rcases hmoved with ⟨rfl, rfl⟩ | ⟨-, rfl, rfl⟩ | ⟨-, rfl, rfl⟩
  · exact hs
  · rw [sectorValue_of_inWord (hs.read _)]
    exact hs.with_stores hmem (inWord_write hdisk _ (hs.read _))
  · exact hs.with_stores (inWord_write hmem _ (inWord_read hdisk _)) hdisk

/-- Every unit keeps Words in the Word-valued places, RB and RL. -/
theorem wordsOnly_keptByUnits : KeptByUnits State.WordsOnly :=
  keptByUnits_of_blindToControl (fun _ _ _ _ _ _ _ _ _ _ _ hs => hs) (fun _ hs => hs.with_ir (hs.read _))
    (fun hs hi h => exec_wordsOnly hs hi h) fun _ hs => dmaTransfer_wordsOnly hs

/-- A host action that keeps its duties writes Words only. -/
theorem hostAction_wordsOnly {s t : State} {a : HostAction} (hs : s.WordsOnly) (h : s.hostAction a = .next t) :
    t.WordsOnly := by
  obtain ⟨-, -, -, -, -, -, hmem, hdisk⟩ := id hs
  obtain ⟨-, ⟨words, loadAddress, ⟨-, hwords, -, -⟩, rfl⟩ | ⟨_, -, rfl⟩ | ⟨_, _, _, ⟨-, hbase, hlimit⟩, rfl⟩⟩ :=
    hostAction_cases h
  exacts [hs.with_stores (inWord_loadWords words s.mem _ hmem hwords) hdisk, hs, hs.with_region hbase hlimit]

/-- Settles O51: every unit's actions and the host's keep Words in the Word-valued places, RB and RL. -/
theorem stepKeepsWordsInRange : Obligations.StepKeepsWordsInRange :=
  fun _ _ hs hstep => wordsOnly_keptByUnits.step (fun _ _ hu _ => hostAction_wordsOnly hu) hs hstep

end Sys2Proof.Machine
end

section
/-! SUPPORT. The device registers, the slot, the phases and the mode through every step (R48, R49, R303, R321, R408). -/

namespace Sys2Proof.Machine

/-- A well-formed instruction writes operand fields to the device registers. -/
theorem exec_operandsInRange {i : Instr} {s t : State} (hs : s.OperandsInRange) (hi : i.wellFormed = true)
    (h : exec i s = .next t) : t.OperandsInRange := by
  obtain ⟨hperiod, htrack, hcylinder, hsector, haddress, hdirection⟩ := id hs
  cases i with
  | tti n => cases h; exact ⟨of_decide_eq_true hi, htrack, hcylinder, hsector, haddress, hdirection⟩
  | sdmap n => cases h; exact ⟨hperiod, of_decide_eq_true hi, hcylinder, hsector, haddress, hdirection⟩
  | sdmac n => cases h; exact ⟨hperiod, htrack, of_decide_eq_true hi, hsector, haddress, hdirection⟩
  | sdmas n => cases h; exact ⟨hperiod, htrack, hcylinder, of_decide_eq_true hi, haddress, hdirection⟩
  | sdmaio n => cases h; exact ⟨hperiod, htrack, hcylinder, hsector, haddress, of_decide_eq_true hi⟩
  | sdmam n => cases h; exact ⟨hperiod, htrack, hcylinder, hsector, of_decide_eq_true hi, hdirection⟩
  | _ =>
    rw [show t = _ from exec_changesOnly h]
    exact hs

/-- Every unit keeps operand fields in the device registers. -/
theorem operandsInRange_keptByUnits : KeptByUnits State.OperandsInRange :=
  keptByUnits_of_blindToControl (fun _ _ _ _ _ _ _ _ _ _ _ hs => hs) (fun _ hs => hs)
    (fun hs hi h => exec_operandsInRange hs hi h) fun s hs => by
      obtain ⟨_, _, _, hmove, -⟩ := dmaTransfer_cases s
      rw [hmove]
      exact hs

/-- Settles O52: every unit's actions keep the device registers' range, and the host leaves them alone. -/
theorem stepKeepsDeviceOperandsInRange : Obligations.StepKeepsDeviceOperandsInRange := by
  refine fun _ _ hs hstep => operandsInRange_keptByUnits.step (fun u a hu _ h => ?_) hs hstep
  obtain ⟨-, ⟨_, _, -, rfl⟩ | ⟨_, -, rfl⟩ | ⟨_, _, _, -, rfl⟩⟩ := hostAction_cases h <;> exact hu

/-- Before the check point only a recoverable code is pending, so the phase may change. -/
theorem slotInvariant_of_slot_eq {s t : State} (hs : s.SlotInvariant) (hphase : s.cpuPhase ≠ .check)
    (hslot : t.slot = s.slot) : t.SlotInvariant := by
  intro hpending
  rw [hslot] at hpending ⊢
  obtain ⟨hsyscall, hinterrupt, hfatal⟩ := hs hpending
  exact ⟨hsyscall, hinterrupt, fun h => absurd (hfatal h) hphase⟩

/-- Once a raisable code is raised, the code pending is raisable. -/
theorem raisable_code_of_raise {s : State} (hs : s.SlotInvariant) {c : InterruptCode} (hc : Raisable c) :
    Raisable (s.slot.raise c).code := by
  rcases slot_raise_cases s.slot c with ⟨hpending, e⟩ | ⟨-, e⟩ <;> rw [e]
  · obtain ⟨hsyscall, hinterrupt, -⟩ := hs hpending
    exact ⟨hsyscall, hinterrupt⟩
  · exact hc

/-- In the check phase any raisable code may be pending. -/
theorem slotInvariant_of_raise_check {s t : State} (hs : s.SlotInvariant) {c : InterruptCode} (hc : Raisable c)
    (hslot : t.slot = s.slot.raise c) (hphase : t.cpuPhase = .check) : t.SlotInvariant := by
  intro _
  obtain ⟨hsyscall, hinterrupt⟩ := raisable_code_of_raise hs hc
  rw [hslot]
  exact ⟨hsyscall, hinterrupt, fun _ => hphase⟩

/-- A recoverable code may be raised in any phase. -/
theorem slotInvariant_of_raise_recoverable {s t : State} (hs : s.SlotInvariant) {c : InterruptCode} (hc : Raisable c)
    (hrecoverable : c.isFatal = false) (hslot : t.slot = s.slot.raise c) (hphase : t.cpuPhase = s.cpuPhase) :
    t.SlotInvariant := by
  intro _
  obtain ⟨hsyscall, hinterrupt⟩ := raisable_code_of_raise hs hc
  rw [hslot, hphase]
  refine ⟨hsyscall, hinterrupt, fun hfatal => ?_⟩
  rcases slot_raise_cases s.slot c with ⟨hpending, e⟩ | ⟨-, e⟩ <;> rw [e] at hfatal
  · obtain ⟨-, -, hcheck⟩ := hs hpending
    exact hcheck hfatal
  · exact absurd (hfatal.symm.trans hrecoverable) (by decide)

/-- Every unit keeps fatal codes to their cycle. -/
theorem slotInvariant_keptByUnits : KeptByUnits State.SlotInvariant where
  schedule _ _ _ hs := hs
  stop _ hs hphase _ := slotInvariant_of_slot_eq hs (by rw [hphase]; decide) rfl
  fetched _ hs hphase := slotInvariant_of_slot_eq hs (by rw [hphase]; decide) rfl
  fetchFailed _ hs := slotInvariant_of_raise_check hs (raisable_of_mem (by decide)) rfl rfl
  executed s i m hs hphase _ hexec := by
    rcases exec_slot hexec with hslot | ⟨c, hc, hslot⟩
    exacts [slotInvariant_of_slot_eq hs (by rw [hphase]; decide) hslot, slotInvariant_of_raise_check hs hc hslot rfl]
  illegal _ hs := slotInvariant_of_raise_check hs (raisable_of_mem (by decide)) rfl rfl
  checkPoint s hs hpending := by
    rcases checkPoint_cases s with ⟨hidle, e⟩ | ⟨-, e⟩ <;> rw [e] at hpending
    · exact absurd (hidle.symm.trans hpending) (by decide)
    · cases hpending
  timer s hs := by
    rcases timerAction_cases s with e | ⟨-, -, e⟩ | ⟨-, -, e⟩ | ⟨-, e⟩ <;> rw [e]
    exacts [hs, hs, hs, slotInvariant_of_raise_recoverable hs (raisable_of_mem (by decide)) rfl rfl rfl]
  timerExit s hs := by rcases timerExit_cases s with e | ⟨-, -, e⟩ <;> rw [e] <;> exact hs
  dma s hs := by
    obtain ⟨_, _, _, hmove, -⟩ := dmaTransfer_cases s
    rcases dmaAction_cases s with e | ⟨-, -, e⟩ | ⟨-, -, e⟩ | ⟨-, e⟩ <;> rw [e]
    exacts [hs, hs, hs, by
      rw [hmove]; exact slotInvariant_of_raise_recoverable hs (raisable_of_mem (by decide)) rfl rfl rfl]
  dmaExit s hs := by rcases dmaExit_cases s with e | ⟨-, -, e⟩ <;> rw [e] <;> exact hs

/-- No host action changes the slot. -/
theorem hostAction_slot {s t : State} {a : HostAction} (h : s.hostAction a = .next t) : t.slot = s.slot := by
  obtain ⟨-, ⟨_, _, -, rfl⟩ | ⟨_, -, rfl⟩ | ⟨_, _, _, -, rfl⟩⟩ := hostAction_cases h <;> rfl

/-- Settles O53: every unit's actions keep fatal codes to their cycle, and the host acts on a Stopped CPU. -/
theorem stepKeepsFatalCodesToTheirCycle : Obligations.StepKeepsFatalCodesToTheirCycle := by
  refine fun _ _ hs hstep => slotInvariant_keptByUnits.step (fun u a hu _ h => ?_) hs hstep
  obtain ⟨⟨hstopped, -, -⟩, -⟩ := hostAction_cases h
  exact slotInvariant_of_slot_eq hu (by rw [hstopped]; decide) (hostAction_slot h)

/-- An instruction never sets Running. -/
theorem running_of_exec {i : Instr} {s t : State} (h : exec i s = .next t) (hrunning : t.running = true) :
    s.running = true := by
  rcases exec_running h with e | ⟨-, -, e⟩
  · exact e.symm.trans hrunning
  · exact absurd (e.symm.trans hrunning) (by decide)

/-- Running survives the check point when nothing fatal is pending, and nothing there sets it. -/
theorem running_of_checkPoint {s : State} (h : s.checkPoint.running = true) : s.running = true := by
  rcases checkPoint_cases s with ⟨-, e⟩ | ⟨-, e⟩ <;> rw [e] at h
  · exact h
  · simp only at h
    split at h
    exacts [absurd h (by decide), h]

/-- An action of the CPU keeps the units going if it sets Running never and stops the CPU only with Running clear. -/
theorem unitsInvariant_of_cpu_action {s t : State} (hs : s.UnitsInvariant)
    (hrunning : t.running = true → s.running = true ∧ t.cpuPhase ≠ .stopped)
    (htimer : t.timerPhase = s.timerPhase) (hdma : t.dmaPhase = s.dmaPhase)
    (hactive : s.dma.active = true → t.dma.active = true) : t.UnitsInvariant := by
  obtain ⟨hgoing, harmed⟩ := hs
  refine ⟨fun h => ?_, fun h => hactive (harmed (hdma.symm.trans h))⟩
  obtain ⟨hwas, hcpu⟩ := hrunning h
  obtain ⟨-, htimerGoing, hdmaGoing⟩ := hgoing hwas
  exact ⟨hcpu, by rw [htimer]; exact htimerGoing, by rw [hdma]; exact hdmaGoing⟩

/-- Once Running is clear the units may stop. -/
theorem unitsInvariant_of_clear {t : State} (hclear : t.running = false)
    (harmed : t.dmaPhase = .busy → t.dma.active = true) : t.UnitsInvariant :=
  ⟨fun hrunning => absurd (hclear.symm.trans hrunning) (by decide), harmed⟩

/-- The timer may change its phase, short of stopping. -/
theorem unitsInvariant_of_timer {s t : State} (hs : s.UnitsInvariant) (hphase : t.timerPhase ≠ .stopped)
    (hrunning : t.running = s.running) (hcpu : t.cpuPhase = s.cpuPhase) (hdma : t.dmaPhase = s.dmaPhase)
    (hregisters : t.dma = s.dma) : t.UnitsInvariant := by
  obtain ⟨hgoing, harmed⟩ := hs
  rw [State.UnitsInvariant, hrunning, hcpu, hdma, hregisters]
  refine ⟨fun h => ?_, harmed⟩
  obtain ⟨hcpuGoing, -, hdmaGoing⟩ := hgoing h
  exact ⟨hcpuGoing, hphase, hdmaGoing⟩

/-- The DMA unit may change its phase, short of stopping, if it is armed in Busy. -/
theorem unitsInvariant_of_dma {s t : State} (hs : s.UnitsInvariant) (hphase : t.dmaPhase ≠ .stopped)
    (harmed : t.dmaPhase = .busy → t.dma.active = true) (hrunning : t.running = s.running)
    (hcpu : t.cpuPhase = s.cpuPhase) (htimer : t.timerPhase = s.timerPhase) : t.UnitsInvariant := by
  obtain ⟨hgoing, -⟩ := hs
  rw [State.UnitsInvariant, hrunning, hcpu, htimer]
  refine ⟨fun h => ?_, harmed⟩
  obtain ⟨hcpuGoing, htimerGoing, -⟩ := hgoing h
  exact ⟨hcpuGoing, htimerGoing, hphase⟩

/-- Every unit keeps the others going while Running holds, and a Busy DMA unit armed. -/
theorem unitsInvariant_keptByUnits : KeptByUnits State.UnitsInvariant where
  schedule _ _ _ hs := hs
  stop _ hs _ hclear := unitsInvariant_of_clear hclear hs.2
  fetched _ hs _ := unitsInvariant_of_cpu_action hs (fun h => ⟨h, by simp [State.fetched]⟩) rfl rfl id
  fetchFailed _ hs := unitsInvariant_of_cpu_action hs (fun h => ⟨h, by simp [State.fetchFailed]⟩) rfl rfl id
  executed s i m hs _ _ hexec :=
    have hframe := exec_frame hexec
    unitsInvariant_of_cpu_action hs (fun h => ⟨running_of_exec (s := s.emit (.executed s.mar s.ir)) hexec h, by simp⟩)
      hframe.timerPhase hframe.dmaPhase fun h => exec_dma_active (s := s.emit (.executed s.mar s.ir)) (t := m) h hexec
  illegal _ hs := unitsInvariant_of_cpu_action hs (fun h => ⟨h, by simp⟩) rfl rfl id
  checkPoint s hs := by
    refine unitsInvariant_of_cpu_action hs (fun h => ⟨running_of_checkPoint h, ?_⟩) ?_ ?_ ?_ <;>
      rcases checkPoint_cases s with ⟨-, e⟩ | ⟨-, e⟩ <;> simp [e]
  timer s hs := by
    rcases timerAction_cases s with e | ⟨-, hclear, e⟩ | ⟨-, -, e⟩ | ⟨-, e⟩ <;> rw [e]
    exacts [hs, unitsInvariant_of_clear hclear hs.2, unitsInvariant_of_timer hs (by simp) rfl rfl rfl rfl,
      unitsInvariant_of_timer hs (by simp) rfl rfl rfl rfl]
  timerExit s hs := by
    rcases timerExit_cases s with e | ⟨-, hclear, e⟩ <;> rw [e]
    exacts [hs, unitsInvariant_of_clear hclear hs.2]
  dma s hs := by
    obtain ⟨_, _, _, hmove, -⟩ := dmaTransfer_cases s
    rcases dmaAction_cases s with e | ⟨-, hclear, e⟩ | ⟨-, hactive, e⟩ | ⟨-, e⟩ <;> rw [e]
    exacts [hs, unitsInvariant_of_clear hclear (by simp),
      unitsInvariant_of_dma hs (by simp) (fun _ => hactive) rfl rfl rfl,
      by rw [hmove]; exact unitsInvariant_of_dma hs (by simp) (by simp) rfl rfl rfl]
  dmaExit s hs := by
    rcases dmaExit_cases s with e | ⟨-, hclear, e⟩ <;> rw [e]
    exacts [hs, unitsInvariant_of_clear hclear (by simp)]

/-- Settles O54: every unit's actions keep the invariant, and a dispatch sets every unit going. -/
theorem stepKeepsUnitsGoingWhileRunning : Obligations.StepKeepsUnitsGoingWhileRunning := by
  refine fun _ _ hs hstep => unitsInvariant_keptByUnits.step (fun u a hu _ h => ?_) hs hstep
  obtain ⟨-, ⟨_, _, -, rfl⟩ | ⟨_, -, rfl⟩ | ⟨_, _, _, -, rfl⟩⟩ := hostAction_cases h
  exacts [hu, hu, ⟨fun _ => ⟨by simp, by simp, by simp⟩, by simp⟩]

/-- Settles O49: reset's stores are empty, its registers 0, nothing is pending and nothing runs. -/
theorem resetMeetsTheInvariants : Obligations.ResetMeetsTheInvariants :=
  ⟨⟨⟨.nil, nofun⟩, .nil, nofun⟩,
    ⟨by decide, by decide, by decide, by decide, by decide, by decide, nofun, nofun⟩,
    ⟨by decide, by decide, by decide, by decide, by decide, by decide⟩, nofun, nofun, nofun⟩

/-- User mode is kept by every unit: no instruction leaves it. -/
theorem userMode_keptByUnits : KeptByUnits (·.mode = .user) :=
  keptByUnits_of_blindToControl (fun _ _ _ _ _ _ _ _ _ _ _ hs => hs) (fun _ hs => hs)
    (fun hs _ h => exec_mode_of_user hs h) fun s hs => by
      obtain ⟨_, _, _, hmove, -⟩ := dmaTransfer_cases s
      rw [hmove]
      exact hs

/-- Settles O56: the units keep user mode, and of the host's actions only set-mode writes it. -/
theorem nothingEntersKernelModeFromUserMode : Obligations.NothingEntersKernelModeFromUserMode := by
  refine fun s t hs hturn hstep => userMode_keptByUnits.step (fun u a hu ha h => ?_) hs hstep
  obtain ⟨-, ⟨_, _, -, rfl⟩ | ⟨mode, rfl, rfl⟩ | ⟨_, _, _, -, rfl⟩⟩ := hostAction_cases h
  · exact hu
  · cases mode with
    | user => rfl
    | kernel => exact absurd ha hturn
  · exact hu

/-- The execute action clears Running only for SVC with AC = 0 (R220). -/
theorem executeAction_clears {s t : State} (h : s.executeAction = .next t) (hrunning : s.running = true)
    (hclear : t.running = false) : decode s.ir = .ok .svc ∧ s.ac = 0 := by
  rcases executeAction_cases h with ⟨i, m, hdecode, hexec, rfl⟩ | ⟨e, -, rfl⟩
  · rcases exec_running hexec with hkept | ⟨rfl, hzero, -⟩
    · exact absurd (hclear.symm.trans (hkept.trans hrunning)) (by decide)
    · exact ⟨hdecode, hzero⟩
  · exact absurd (hclear.symm.trans hrunning) (by decide)

/-- The check point clears Running only on delivering a fatal code (R146). -/
theorem checkPoint_clears {s : State} (hrunning : s.running = true) (hclear : s.checkPoint.running = false) :
    s.slot.pending = true ∧ s.slot.code.isFatal = true := by
  rcases checkPoint_cases s with ⟨-, e⟩ | ⟨hpending, e⟩ <;> rw [e] at hclear
  · exact absurd (hclear.symm.trans hrunning) (by decide)
  · refine ⟨hpending, ?_⟩
    by_contra hrecoverable
    rw [if_neg hrecoverable] at hclear
    exact absurd (hclear.symm.trans hrunning) (by decide)

/-- An action of the CPU clears Running only in SVC with AC = 0 and in the delivery of a fatal code (R148). -/
theorem cpuAction_clears {s t : State} (h : s.cpuAction = .next t) (hrunning : s.running = true)
    (hclear : t.running = false) :
    (s.cpuPhase = .execute ∧ decode s.ir = .ok .svc ∧ s.ac = 0) ∨
      (s.cpuPhase = .check ∧ s.slot.pending = true ∧ s.slot.code.isFatal = true) := by
  cases hphase : s.cpuPhase with
  | stopped =>
    rw [cpuAction_of_stopped hphase] at h
    cases h
    exact absurd (hclear.symm.trans hrunning) (by decide)
  | fetch =>
    rw [cpuAction_of_fetch hphase hrunning] at h
    cases h
    rcases fetchAction_cases s with ⟨-, e⟩ | ⟨-, e⟩ <;> rw [e] at hclear <;>
      exact absurd (hclear.symm.trans hrunning) (by decide)
  | execute =>
    rw [cpuAction_of_execute hphase] at h
    exact .inl ⟨rfl, executeAction_clears h hrunning hclear⟩
  | check =>
    rw [cpuAction_of_check hphase] at h
    cases h
    exact .inr ⟨rfl, checkPoint_clears hrunning hclear⟩

/-- The timer and the DMA unit leave Running alone (R334). -/
theorem unitAction_running {s t : State} {a : UnitAction} (ha : unitOf a ≠ .cpu) (h : s.unitAction a = .next t) :
    t.running = s.running := by
  obtain ⟨htimer, hdma⟩ := unitsLeaveTheCpuAlone s t
  cases a with
  | cpuCycle | cpu => exact absurd rfl ha
  | timer | timerExit => rw [htimer _ (by simp) h]
  | dma | dmaExit => rw [(hdma _ (by simp) h).1]

/-- A host action leaves Running alone or sets it (R406). -/
theorem hostAction_running {s t : State} {a : HostAction} (h : s.hostAction a = .next t) (hrunning : s.running = true) :
    t.running = true := by
  obtain ⟨-, ⟨_, _, -, rfl⟩ | ⟨_, -, rfl⟩ | ⟨_, _, _, -, rfl⟩⟩ := hostAction_cases h
  exacts [hrunning, hrunning, rfl]

/-- Settles O55: of the atomic actions only the CPU's clear Running, in its two cases. -/
theorem onlySvcOrAFatalDeliveryClearsRunning : Obligations.OnlySvcOrAFatalDeliveryClearsRunning := by
  intro s t turn hatomic h hrunning hclear
  have hkept : t.running ≠ s.running := by rw [hrunning, hclear]; decide
  match turn with
  | .unit .cpuCycle => exact absurd rfl hatomic
  | .unit .cpu => exact ⟨rfl, cpuAction_clears h hrunning hclear⟩
  | .unit .timer => exact absurd (unitAction_running (a := .timer) (by decide) h) hkept
  | .unit .timerExit => exact absurd (unitAction_running (a := .timerExit) (by decide) h) hkept
  | .unit .dma => exact absurd (unitAction_running (a := .dma) (by decide) h) hkept
  | .unit .dmaExit => exact absurd (unitAction_running (a := .dmaExit) (by decide) h) hkept
  | .host a => exact absurd (hclear.symm.trans (hostAction_running h hrunning)) (by decide)

end Sys2Proof.Machine
end

section
/-! SUPPORT. What one agent's turn does to the phases of all three and to Running (R90, R350). -/

namespace Sys2Proof.Machine

/-- The CPU's actions leave the other units' phases alone. -/
theorem phases_keptByCpu (timer : TimerPhase) (dma : DmaPhase) :
    KeptByCpu fun s => s.timerPhase = timer ∧ s.dmaPhase = dma where
  stop _ hs _ _ := hs
  fetched _ hs _ := hs
  fetchFailed _ hs := hs
  executed s _ m hs _ _ hexec :=
    have hframe := exec_frame hexec
    ⟨hframe.timerPhase.trans hs.1, hframe.dmaPhase.trans hs.2⟩
  illegal _ hs := hs
  checkPoint s hs := by rcases checkPoint_cases s with ⟨-, e⟩ | ⟨-, e⟩ <;> rw [e] <;> exact hs

/-- No unit's turn changes another unit's phase. -/
theorem unitAction_other_phases {s t : State} {a : UnitAction} (h : s.unitAction a = .next t) :
    (unitOf a ≠ .cpu → t.cpuPhase = s.cpuPhase) ∧ (unitOf a ≠ .timer → t.timerPhase = s.timerPhase) ∧
      (unitOf a ≠ .dma → t.dmaPhase = s.dmaPhase) := by
  obtain ⟨htimer, hdma⟩ := unitsLeaveTheCpuAlone s t
  cases a with
  | cpuCycle | cpu =>
    obtain ⟨htimerPhase, hdmaPhase⟩ :=
      (phases_keptByCpu s.timerPhase s.dmaPhase).unitAction (s := s) rfl ⟨rfl, rfl⟩ h
    exact ⟨fun hne => absurd rfl hne, fun _ => htimerPhase, fun _ => hdmaPhase⟩
  | timer | timerExit =>
    rw [htimer _ (by simp) h]
    exact ⟨fun _ => rfl, fun hne => absurd rfl hne, fun _ => rfl⟩
  | dma | dmaExit =>
    rw [(hdma _ (by simp) h).1]
    exact ⟨fun _ => rfl, fun _ => rfl, fun hne => absurd rfl hne⟩

/-- No unit sets Running. -/
theorem clear_keptByUnits : KeptByUnits (·.running = false) where
  schedule _ _ _ hs := hs
  stop _ hs _ _ := hs
  fetched _ hs _ := hs
  fetchFailed _ hs := hs
  executed s _ m hs _ _ hexec := by
    rcases exec_running hexec with hkept | ⟨-, -, hclear⟩
    exacts [hkept.trans hs, hclear]
  illegal _ hs := hs
  checkPoint s hs := by
    rcases checkPoint_cases s with ⟨-, e⟩ | ⟨-, e⟩ <;> rw [e]
    · exact hs
    · simpa using fun _ => hs
  timer s hs := by
    rcases timerAction_cases s with e | ⟨-, -, e⟩ | ⟨-, -, e⟩ | ⟨-, e⟩ <;> rw [e] <;> exact hs
  timerExit s hs := by rcases timerExit_cases s with e | ⟨-, -, e⟩ <;> rw [e] <;> exact hs
  dma s hs := by
    obtain ⟨_, _, _, hmove, -⟩ := dmaTransfer_cases s
    rcases dmaAction_cases s with e | ⟨-, -, e⟩ | ⟨-, -, e⟩ | ⟨-, e⟩ <;> rw [e]
    exacts [hs, hs, hs, by rw [hmove]; exact hs]
  dmaExit s hs := by rcases dmaExit_cases s with e | ⟨-, -, e⟩ <;> rw [e] <;> exact hs

end Sys2Proof.Machine
end

section
/-! SUPPORT. An armed timer in a fair run fires again and again (R334, D38, D43). -/

namespace Sys2Proof.Machine

/-- A weakly fair run in which Running stays set, the period stays non-zero and the timer has not stopped. -/
structure ArmedRun (schedule : Nat → Turn) (run : Nat → State) : Prop where
  isRun : IsRun schedule run
  fair : WeaklyFair schedule run
  running : ∀ n, (run n).running = true
  period : ∀ n, (run n).timerPeriod ≠ 0
  going : ∀ n, (run n).timerPhase ≠ .stopped

section
variable {schedule : Nat → Turn} {run : Nat → State}

/-- The timer takes its turn again and again: its exit step is not open while Running holds. -/
theorem ArmedRun.exists_timer_turn (h : ArmedRun schedule run) (n : Nat) :
    ∃ m, n ≤ m ∧ schedule m = .unit .timer := by
  obtain ⟨m, hm, a, hturn, hunit, hallows⟩ := h.fair .timer n fun m _ => by
    simpa [State.enabled] using h.going m
  refine ⟨m, hm, ?_⟩
  cases a with
  | timer => exact hturn
  | timerExit => simp [State.allows, h.running m] at hallows
  | cpuCycle | cpu | dma | dmaExit => cases hunit

/-- A sleeping timer sleeps on until its turn. -/
theorem sleeping_of_other_turn {s t : State} {turn : Turn} (h : s.takeTurn turn = .next t)
    (hrunning : s.running = true) (hsleeping : s.timerPhase = .sleeping) (hturn : turn ≠ .unit .timer) :
    t.timerPhase = .sleeping := by
  cases turn with
  | unit a =>
    have hact : s.unitAction a = .next t := h
    cases a with
    | timer => exact absurd rfl hturn
    | timerExit =>
      cases h
      rcases timerExit_cases s with e | ⟨-, hclear, -⟩
      · rw [e]
        exact hsleeping
      · exact absurd (hclear.symm.trans hrunning) (by decide)
    | cpuCycle | cpu | dma | dmaExit =>
      obtain ⟨-, htimer, -⟩ := unitAction_other_phases hact
      exact (htimer (by decide)).trans hsleeping
  | host a =>
    obtain ⟨⟨-, hstopped, -⟩, -⟩ := hostAction_cases h
    exact absurd (hstopped.symm.trans hsleeping) (by decide)

/-- A sleeping timer fires in the end. -/
theorem ArmedRun.exists_fire_of_sleeping (h : ArmedRun schedule run) {n : Nat}
    (hsleeping : (run n).timerPhase = .sleeping) :
    ∃ m, n ≤ m ∧ (run m).timerPhase = .sleeping ∧ schedule m = .unit .timer := by
  by_contra hnone
  have hon : ∀ m, n ≤ m → (run m).timerPhase = .sleeping := by
    intro m hm
    induction m, hm using Nat.le_induction with
    | base => exact hsleeping
    | succ m hm ih =>
      exact sleeping_of_other_turn (h.isRun m) (h.running m) ih fun hturn => hnone ⟨m, hm, ih, hturn⟩
  obtain ⟨m, hm, hturn⟩ := h.exists_timer_turn n
  exact hnone ⟨m, hm, hon m hm, hturn⟩

/-- A timer's turn in Checking puts an armed timer to sleep. -/
theorem ArmedRun.sleeping_succ (h : ArmedRun schedule run) {n : Nat} (hturn : schedule n = .unit .timer)
    (hchecking : (run n).timerPhase = .checking) : (run (n + 1)).timerPhase = .sleeping := by
  have hnext := h.isRun n
  rw [hturn] at hnext
  injection hnext with hnext
  rw [← hnext, timerAction_of_checking hchecking, if_neg (by simp [h.running n]), if_neg (h.period n)]

/-- A fire leaves a code pending. -/
theorem ArmedRun.pending_succ (h : ArmedRun schedule run) {n : Nat} (hturn : schedule n = .unit .timer)
    (hsleeping : (run n).timerPhase = .sleeping) : (run (n + 1)).slot.pending = true := by
  have hnext := h.isRun n
  rw [hturn] at hnext
  injection hnext with hnext
  rw [← hnext, timerAction_of_sleeping hsleeping]
  exact slot_raise_pending _ _

/-- The timer fires again and again. -/
theorem ArmedRun.exists_fire (h : ArmedRun schedule run) (n : Nat) :
    ∃ m, n ≤ m ∧ (run m).timerPhase = .sleeping ∧ schedule m = .unit .timer := by
  obtain ⟨m, hm, hturn⟩ := h.exists_timer_turn n
  cases hphase : (run m).timerPhase with
  | stopped => exact absurd hphase (h.going m)
  | checking =>
    obtain ⟨k, hk, hfire⟩ := h.exists_fire_of_sleeping (h.sleeping_succ hturn hphase)
    exact ⟨k, by omega, hfire⟩
  | sleeping => exact ⟨m, hm, hphase, hturn⟩

end

/-- Settles O38: the timer's turns recur, one in Checking leads to a sleep, and a sleep to a fire. -/
theorem armedTimerFiresForEver : Obligations.ArmedTimerFiresForEver := by
  intro schedule run hrun hfair harmed n
  obtain ⟨hrunning, hrest⟩ := forall_and.mp harmed
  obtain ⟨hperiod, hgoing⟩ := forall_and.mp hrest
  have h : ArmedRun schedule run := ⟨hrun, hfair, hrunning, hperiod, hgoing⟩
  obtain ⟨m, hm, hsleeping, hturn⟩ := h.exists_fire n
  exact ⟨m, hm, hsleeping, hturn, h.pending_succ hturn hsleeping⟩

end Sys2Proof.Machine
end

section
/-! SUPPORT. A fair run with Running clear ends: each unit's phase comes down to Stopped (R408, D43). -/

namespace Sys2Proof.Machine

/-- How many actions the CPU has left with Running clear. -/
def CpuPhase.rank : CpuPhase → Nat
  | .stopped => 0
  | .fetch => 1
  | .check => 2
  | .execute => 3

/-- How many actions the timer has left at most with Running clear. -/
def TimerPhase.rank : TimerPhase → Nat
  | .stopped => 0
  | .checking => 1
  | .sleeping => 2

/-- How many actions the DMA unit has left at most with Running clear. -/
def DmaPhase.rank : DmaPhase → Nat
  | .stopped => 0
  | .idle => 1
  | .busy => 2

/-- How many actions an agent has left at most with Running clear. -/
def State.rank (s : State) : Agent → Nat
  | .cpu => s.cpuPhase.rank
  | .timer => s.timerPhase.rank
  | .dma => s.dmaPhase.rank

/-- An agent is enabled until its rank is 0. -/
theorem enabled_iff_rank_pos (s : State) (u : Agent) : s.enabled u = true ↔ 0 < s.rank u := by
  cases u with
  | cpu => cases h : s.cpuPhase <;> simp [State.enabled, State.rank, CpuPhase.rank, h]
  | timer => cases h : s.timerPhase <;> simp [State.enabled, State.rank, TimerPhase.rank, h]
  | dma => cases h : s.dmaPhase <;> simp [State.enabled, State.rank, DmaPhase.rank, h]

/-- At rank 0 every agent is Stopped. -/
theorem allStopped_of_rank_eq_zero {s : State} (h : ∀ u, s.rank u = 0) : s.AllStopped := by
  have hoff : ∀ u, s.enabled u = false := by
    intro u
    rw [← Bool.not_eq_true, enabled_iff_rank_pos, h u]
    decide
  exact ⟨by simpa [State.enabled] using hoff .cpu, by simpa [State.enabled] using hoff .timer,
    by simpa [State.enabled] using hoff .dma⟩

/-- An action of a CPU that has not stopped, with Running clear, brings it nearer its stop. -/
theorem cpuAction_rank_lt {s t : State} (hclear : s.running = false) (hgoing : s.cpuPhase ≠ .stopped)
    (h : s.cpuAction = .next t) : t.cpuPhase.rank < s.cpuPhase.rank := by
  cases hphase : s.cpuPhase with
  | stopped => exact absurd hphase hgoing
  | fetch =>
    rw [cpuAction_of_fetch_clear hphase hclear] at h
    cases h
    exact Nat.zero_lt_one
  | execute =>
    rw [cpuAction_of_execute hphase] at h
    rw [executeAction_cpuPhase h]
    decide
  | check =>
    rw [cpuAction_of_check hphase] at h
    cases h
    rcases checkPoint_cases s with ⟨-, e⟩ | ⟨-, e⟩ <;> rw [e] <;> exact Nat.one_lt_two

/-- With Running clear any number of the CPU's actions takes it no further from its stop. -/
theorem cpuActions_rank_le (k : Nat) :
    ∀ {s t : State}, s.running = false → cpuActions k s = .next t → t.cpuPhase.rank ≤ s.cpuPhase.rank := by
  induction k with
  | zero => rintro s t - ⟨⟩; exact Nat.le_refl _
  | succ k ih =>
    intro s t hclear h
    obtain ⟨m, hm, hrest⟩ := andThen_eq_next h
    have hle : m.cpuPhase.rank ≤ s.cpuPhase.rank := by
      by_cases hphase : s.cpuPhase = .stopped
      · rw [cpuAction_of_stopped hphase] at hm
        cases hm
        exact Nat.le_refl _
      · exact Nat.le_of_lt (cpuAction_rank_lt hclear hphase hm)
    exact Nat.le_trans (ih (clear_keptByUnits.cpuAction hclear hm) hrest) hle

/-- With Running clear a cycle of a CPU that has not stopped brings it nearer its stop. -/
theorem cpuCycle_rank_lt {s t : State} (hclear : s.running = false) (hgoing : s.cpuPhase ≠ .stopped)
    (h : s.cpuCycle = .next t) : t.cpuPhase.rank < s.cpuPhase.rank := by
  obtain ⟨m, hm, hfinish⟩ := andThen_eq_next h
  obtain ⟨k, -, hrest⟩ := finishCycle_eq_cpuActions m
  calc t.cpuPhase.rank ≤ m.cpuPhase.rank :=
        cpuActions_rank_le k (clear_keptByUnits.cpuAction hclear hm) (hrest.symm.trans hfinish)
    _ < s.cpuPhase.rank := cpuAction_rank_lt hclear hgoing hm

/-- With Running clear the timer's action brings it nearer its stop. -/
theorem timerAction_rank_lt {s : State} (hclear : s.running = false) (hgoing : s.timerPhase ≠ .stopped) :
    s.timerAction.timerPhase.rank < s.timerPhase.rank := by
  cases hphase : s.timerPhase with
  | stopped => exact absurd hphase hgoing
  | checking =>
    rw [timerAction_of_checking hphase, if_pos hclear]
    exact Nat.zero_lt_one
  | sleeping =>
    rw [timerAction_of_sleeping hphase]
    exact Nat.one_lt_two

/-- With Running clear the DMA unit's action brings it nearer its stop. -/
theorem dmaAction_rank_lt {s : State} (hclear : s.running = false) (hgoing : s.dmaPhase ≠ .stopped) :
    s.dmaAction.dmaPhase.rank < s.dmaPhase.rank := by
  cases hphase : s.dmaPhase with
  | stopped => exact absurd hphase hgoing
  | idle =>
    rw [dmaAction_of_idle hphase, if_pos hclear]
    exact Nat.zero_lt_one
  | busy =>
    rw [dmaAction_of_busy hphase]
    exact Nat.one_lt_two

/-- With Running clear an enabled action brings its unit nearer its stop. -/
theorem unitAction_rank_lt {s t : State} {a : UnitAction} (hclear : s.running = false) (hallows : s.allows a = true)
    (h : s.unitAction a = .next t) : t.rank (unitOf a) < s.rank (unitOf a) := by
  cases a with
  | cpuCycle => exact cpuCycle_rank_lt hclear (by simpa [State.allows] using hallows) h
  | cpu => exact cpuAction_rank_lt hclear (by simpa [State.allows] using hallows) h
  | timer =>
    cases h
    exact timerAction_rank_lt hclear (by simpa [State.allows] using hallows)
  | timerExit =>
    cases h
    have hopen : s.timerPhase = .sleeping ∧ s.running = false := by simpa [State.allows] using hallows
    simp [State.rank, unitOf, State.timerExit, hopen, TimerPhase.rank]
  | dma =>
    cases h
    exact dmaAction_rank_lt hclear (by simpa [State.allows] using hallows)
  | dmaExit =>
    cases h
    have hopen : s.dmaPhase = .busy ∧ s.running = false := by simpa [State.allows] using hallows
    simp [State.rank, unitOf, State.dmaExit, hopen, DmaPhase.rank]

/-- A turn with an action that is not enabled changes nothing (log entry 3). -/
theorem unitAction_of_not_allowed {s : State} {a : UnitAction} (h : s.allows a = false) : s.unitAction a = .next s := by
  cases a with
  | cpuCycle =>
    have hphase : s.cpuPhase = .stopped := by simpa [State.allows] using h
    simp [State.unitAction, State.cpuCycle, cpuAction_of_stopped hphase, State.finishCycle, hphase]
  | cpu => exact cpuAction_of_stopped (by simpa [State.allows] using h)
  | timer => exact congrArg _ (timerAction_of_stopped (by simpa [State.allows] using h))
  | timerExit => exact congrArg _ (if_neg fun ⟨hphase, hclear⟩ => by simp [State.allows, hphase, hclear] at h)
  | dma => exact congrArg _ (dmaAction_of_stopped (by simpa [State.allows] using h))
  | dmaExit => exact congrArg _ (if_neg fun ⟨hphase, hclear⟩ => by simp [State.allows, hphase, hclear] at h)

/-- No unit's turn changes another agent's rank. -/
theorem unitAction_rank_other {s t : State} {a : UnitAction} (h : s.unitAction a = .next t) {u : Agent}
    (hu : unitOf a ≠ u) : t.rank u = s.rank u := by
  obtain ⟨hcpu, htimer, hdma⟩ := unitAction_other_phases h
  cases u with
  | cpu => exact congrArg CpuPhase.rank (hcpu hu)
  | timer => exact congrArg TimerPhase.rank (htimer hu)
  | dma => exact congrArg DmaPhase.rank (hdma hu)

/-- With Running clear no unit's turn raises any agent's rank. -/
theorem unitAction_rank_le {s t : State} {a : UnitAction} (hclear : s.running = false)
    (h : s.unitAction a = .next t) (u : Agent) : t.rank u ≤ s.rank u := by
  cases hallows : s.allows a with
  | false =>
    cases (unitAction_of_not_allowed hallows).symm.trans h
    exact Nat.le_refl _
  | true =>
    by_cases hu : unitOf a = u
    · subst hu
      exact Nat.le_of_lt (unitAction_rank_lt hclear hallows h)
    · exact Nat.le_of_eq (unitAction_rank_other h hu)

/-- A descending sequence of numbers that falls again and again while it is positive comes to stay at 0. -/
theorem eventually_zero {f : Nat → Nat} (hdown : ∀ n, f (n + 1) ≤ f n)
    (hfall : ∀ n, (∀ m, n ≤ m → 0 < f m) → ∃ m, n ≤ m ∧ f (m + 1) < f m) : ∃ n, ∀ m, n ≤ m → f m = 0 := by
  have hanti : Antitone f := antitone_nat_of_succ_le hdown
  obtain ⟨n, hleast⟩ : ∃ n, ∀ m, f n ≤ f m := ⟨Function.argmin f, fun m => Function.argmin_le f m⟩
  refine ⟨n, fun m hm => ?_⟩
  by_contra hpos
  have hmn : f m ≤ f n := hanti hm
  obtain ⟨k, hk, hlt⟩ := hfall n fun k _ => by have := hleast k; omega
  have hkn : f k ≤ f n := hanti hk
  have := hleast (k + 1)
  omega

section
variable {schedule : Nat → Turn} {run : Nat → State}

/-- A run that never ends takes units' turns only: the host has no move (R407). -/
theorem exists_unit_of_not_allStopped (hrun : IsRun schedule run) {n : Nat} (hgoing : ¬ (run n).AllStopped) :
    ∃ a, schedule n = .unit a := by
  cases hturn : schedule n with
  | unit a => exact ⟨a, rfl⟩
  | host a =>
    have hnext := hrun n
    rw [hturn] at hnext
    obtain ⟨hstopped, -⟩ := hostAction_cases hnext
    exact absurd hstopped hgoing

/-- In a run that never ends Running stays clear. -/
theorem clear_of_not_allStopped (hrun : IsRun schedule run) (hclear : (run 0).running = false)
    (hgoing : ∀ n, ¬ (run n).AllStopped) (n : Nat) : (run n).running = false := by
  induction n with
  | zero => exact hclear
  | succ n ih =>
    obtain ⟨a, hturn⟩ := exists_unit_of_not_allStopped hrun (hgoing n)
    have hnext := hrun n
    rw [hturn] at hnext
    exact clear_keptByUnits.unitAction ih hnext

/-- In a run that never ends with Running clear every agent comes to rank 0 for good, by fairness. -/
theorem rank_eventually_zero (hrun : IsRun schedule run) (hfair : WeaklyFair schedule run)
    (hclear : (run 0).running = false) (hgoing : ∀ n, ¬ (run n).AllStopped) (u : Agent) :
    ∃ n, ∀ m, n ≤ m → (run m).rank u = 0 := by
  have hoff := clear_of_not_allStopped hrun hclear hgoing
  refine eventually_zero (f := fun n => (run n).rank u) (fun n => ?_) fun n hpos => ?_
  · obtain ⟨a, hturn⟩ := exists_unit_of_not_allStopped hrun (hgoing n)
    have hnext := hrun n
    rw [hturn] at hnext
    exact unitAction_rank_le (hoff n) hnext u
  · obtain ⟨m, hm, a, hturn, rfl, hallows⟩ := hfair u n fun m hm => (enabled_iff_rank_pos _ u).mpr (hpos m hm)
    have hnext := hrun m
    rw [hturn] at hnext
    exact ⟨m, hm, unitAction_rank_lt (hoff m) hallows hnext⟩

end

/-- Settles O60: were some unit always going, all three would come to rank 0. -/
theorem fairRunEndsOnceRunningIsClear : Obligations.FairRunEndsOnceRunningIsClear := by
  intro schedule run hrun hfair hclear
  by_contra hnever
  have hgoing : ∀ n, ¬ (run n).AllStopped := fun n hstopped => hnever ⟨n, hstopped⟩
  obtain ⟨n, hn⟩ := rank_eventually_zero hrun hfair hclear hgoing .cpu
  obtain ⟨m, hm⟩ := rank_eventually_zero hrun hfair hclear hgoing .timer
  obtain ⟨k, hk⟩ := rank_eventually_zero hrun hfair hclear hgoing .dma
  refine hgoing (n + m + k) (allStopped_of_rank_eq_zero fun u => ?_)
  cases u with
  | cpu => exact hn _ (by omega)
  | timer => exact hm _ (by omega)
  | dma => exact hk _ (by omega)

end Sys2Proof.Machine
end
